-- ==== Sys2Proof/Word.lean ====
section
/-! DEFINITION. The bit widths of the machine (spec/00_scope.md R10, R11; spec/10_state.md R20 to R30). -/

namespace Sys2Proof

/-- One byte: a general register, a timer, a memory cell, a literal NN (R20, R50). -/
abbrev Byte := BitVec 8

/-- A 16-bit word: an opcode, PC, I, a stack slot (R24, R26, R29, R80). -/
abbrev Word := BitVec 16

/-- A 4-bit field of an opcode: T, N (R81). -/
abbrev Nibble := BitVec 4

/-- The 12-bit literal NNN (R81). -/
abbrev Addr12 := BitVec 12

/-- The index of a general register, 0 to 15; every value is legal (R20, R83). Key numbers and font digits
have the same range. -/
abbrev Reg := Fin 16

/-- VF, the register that doubles as the flag (R20, R22). -/
abbrev vF : Reg := 15

end Sys2Proof
end

