-- ==== Sys2Proof/Syntax.lean ====
section
/-! DEFINITION. The instructions: one constructor per row of spec/opcode_table.json, named by its pattern, which
is the spec's own mnemonic (spec/30_encoding.md R86, R98). -/

namespace Sys2Proof

/-- One constructor per row of the opcode table, in the table's order. X and Y are register indices, N, NN and
NNN literals (R81, R83). 8XY6 and 8XYE keep Y although it has no effect (R150, R152). -/
inductive Instr where
  /-- 00E0: clear the display (R127). -/
  | op00E0
  /-- 00EE: return from subroutine (R128). -/
  | op00EE
  /-- 0NNN: no-op (R114). -/
  | op0NNN (nnn : Addr12)
  /-- 1NNN: jump (R129). -/
  | op1NNN (nnn : Addr12)
  /-- 2NNN: call (R130). -/
  | op2NNN (nnn : Addr12)
  /-- 3XNN: skip if VX == NN (R132). -/
  | op3XNN (x : Reg) (nn : Byte)
  /-- 4XNN: skip if VX != NN (R133). -/
  | op4XNN (x : Reg) (nn : Byte)
  /-- 5XY0: skip if VX == VY (R134). -/
  | op5XY0 (x y : Reg)
  /-- 6XNN: VX = NN (R142). -/
  | op6XNN (x : Reg) (nn : Byte)
  /-- 7XNN: VX = VX + NN, no flag (R143). -/
  | op7XNN (x : Reg) (nn : Byte)
  /-- 8XY0: VX = VY (R144). -/
  | op8XY0 (x y : Reg)
  /-- 8XY1: VX = VX OR VY (R145). -/
  | op8XY1 (x y : Reg)
  /-- 8XY2: VX = VX AND VY (R146). -/
  | op8XY2 (x y : Reg)
  /-- 8XY3: VX = VX XOR VY (R147). -/
  | op8XY3 (x y : Reg)
  /-- 8XY4: VX = VX + VY, VF = carry (R148). -/
  | op8XY4 (x y : Reg)
  /-- 8XY5: VX = VX - VY, VF = no borrow (R149). -/
  | op8XY5 (x y : Reg)
  /-- 8XY6: VX = VX >> 1, VF = bit out (R150). -/
  | op8XY6 (x y : Reg)
  /-- 8XY7: VX = VY - VX, VF = no borrow (R151). -/
  | op8XY7 (x y : Reg)
  /-- 8XYE: VX = VX << 1, VF = bit out (R152). -/
  | op8XYE (x y : Reg)
  /-- 9XY0: skip if VX != VY (R135). -/
  | op9XY0 (x y : Reg)
  /-- ANNN: I = NNN (R153). -/
  | opANNN (nnn : Addr12)
  /-- BNNN: PC = NNN + V0 (R131). -/
  | opBNNN (nnn : Addr12)
  /-- CXNN: VX = random byte AND NN (R154). -/
  | opCXNN (x : Reg) (nn : Byte)
  /-- DXYN: draw N-row sprite at (VX, VY), VF = collision (R165). -/
  | opDXYN (x y : Reg) (n : Nibble)
  /-- EX9E: skip if key VX[3:0] pressed (R136). -/
  | opEX9E (x : Reg)
  /-- EXA1: skip if key VX[3:0] not pressed (R137). -/
  | opEXA1 (x : Reg)
  /-- FX07: VX = DT (R170). -/
  | opFX07 (x : Reg)
  /-- FX0A: wait for a key (R173). -/
  | opFX0A (x : Reg)
  /-- FX15: DT = VX (R171). -/
  | opFX15 (x : Reg)
  /-- FX18: ST = VX (R172). -/
  | opFX18 (x : Reg)
  /-- FX1E: I = I + VX (R155). -/
  | opFX1E (x : Reg)
  /-- FX29: I = FONT_BASE + FONT_STRIDE * VX[3:0] (R166). -/
  | opFX29 (x : Reg)
  /-- FX33: store BCD of VX at I, I+1, I+2 (R167). -/
  | opFX33 (x : Reg)
  /-- FX55: store V0..VX at I.. (R168). -/
  | opFX55 (x : Reg)
  /-- FX65: load V0..VX from I.. (R169). -/
  | opFX65 (x : Reg)
  /-- Every word that matches no row above is a no-op (R88, R115); the word is kept. -/
  | unmapped (w : Word)
deriving DecidableEq, Repr

/-- A row of the opcode map (R86): a word w is selected by the row when `w &&& mask = pattern`. -/
structure OpRow where
  priority : Nat
  mnemonic : String
  pattern : Word
  mask : Word
deriving DecidableEq, Repr

/-- A word is selected by a row (R86). -/
def OpRow.selects (r : OpRow) (w : Word) : Bool := w &&& r.mask == r.pattern

/-- Rows 1 to 18 of R86, in priority order. -/
def opcodeRowsLow : List OpRow := [
  ⟨1, "00E0", 0x00E0, 0xFFFF⟩,
  ⟨2, "00EE", 0x00EE, 0xFFFF⟩,
  ⟨3, "0NNN", 0x0000, 0xF000⟩,
  ⟨4, "1NNN", 0x1000, 0xF000⟩,
  ⟨5, "2NNN", 0x2000, 0xF000⟩,
  ⟨6, "3XNN", 0x3000, 0xF000⟩,
  ⟨7, "4XNN", 0x4000, 0xF000⟩,
  ⟨8, "5XY0", 0x5000, 0xF00F⟩,
  ⟨9, "6XNN", 0x6000, 0xF000⟩,
  ⟨10, "7XNN", 0x7000, 0xF000⟩,
  ⟨11, "8XY0", 0x8000, 0xF00F⟩,
  ⟨12, "8XY1", 0x8001, 0xF00F⟩,
  ⟨13, "8XY2", 0x8002, 0xF00F⟩,
  ⟨14, "8XY3", 0x8003, 0xF00F⟩,
  ⟨15, "8XY4", 0x8004, 0xF00F⟩,
  ⟨16, "8XY5", 0x8005, 0xF00F⟩,
  ⟨17, "8XY6", 0x8006, 0xF00F⟩,
  ⟨18, "8XY7", 0x8007, 0xF00F⟩]

/-- Rows 19 to 35 of R86, in priority order. -/
def opcodeRowsHigh : List OpRow := [
  ⟨19, "8XYE", 0x800E, 0xF00F⟩,
  ⟨20, "9XY0", 0x9000, 0xF00F⟩,
  ⟨21, "ANNN", 0xA000, 0xF000⟩,
  ⟨22, "BNNN", 0xB000, 0xF000⟩,
  ⟨23, "CXNN", 0xC000, 0xF000⟩,
  ⟨24, "DXYN", 0xD000, 0xF000⟩,
  ⟨25, "EX9E", 0xE09E, 0xF0FF⟩,
  ⟨26, "EXA1", 0xE0A1, 0xF0FF⟩,
  ⟨27, "FX07", 0xF007, 0xF0FF⟩,
  ⟨28, "FX0A", 0xF00A, 0xF0FF⟩,
  ⟨29, "FX15", 0xF015, 0xF0FF⟩,
  ⟨30, "FX18", 0xF018, 0xF0FF⟩,
  ⟨31, "FX1E", 0xF01E, 0xF0FF⟩,
  ⟨32, "FX29", 0xF029, 0xF0FF⟩,
  ⟨33, "FX33", 0xF033, 0xF0FF⟩,
  ⟨34, "FX55", 0xF055, 0xF0FF⟩,
  ⟨35, "FX65", 0xF065, 0xF0FF⟩]

/-- The 35 patterns of R86, in priority order: a word executes the FIRST row that selects it (R87). -/
def opcodeRows : List OpRow := opcodeRowsLow ++ opcodeRowsHigh

/-- The row of R86 an instruction stands for; 36 is the catch-all UNMAPPED. -/
def Instr.priority : Instr → Nat
  | .op00E0 => 1
  | .op00EE => 2
  | .op0NNN _ => 3
  | .op1NNN _ => 4
  | .op2NNN _ => 5
  | .op3XNN _ _ => 6
  | .op4XNN _ _ => 7
  | .op5XY0 _ _ => 8
  | .op6XNN _ _ => 9
  | .op7XNN _ _ => 10
  | .op8XY0 _ _ => 11
  | .op8XY1 _ _ => 12
  | .op8XY2 _ _ => 13
  | .op8XY3 _ _ => 14
  | .op8XY4 _ _ => 15
  | .op8XY5 _ _ => 16
  | .op8XY6 _ _ => 17
  | .op8XY7 _ _ => 18
  | .op8XYE _ _ => 19
  | .op9XY0 _ _ => 20
  | .opANNN _ => 21
  | .opBNNN _ => 22
  | .opCXNN _ _ => 23
  | .opDXYN _ _ _ => 24
  | .opEX9E _ => 25
  | .opEXA1 _ => 26
  | .opFX07 _ => 27
  | .opFX0A _ => 28
  | .opFX15 _ => 29
  | .opFX18 _ => 30
  | .opFX1E _ => 31
  | .opFX29 _ => 32
  | .opFX33 _ => 33
  | .opFX55 _ => 34
  | .opFX65 _ => 35
  | .unmapped _ => 36

end Sys2Proof
end

