-- ==== Sys2Proof/WellFormed.lean ====
section
/-! DEFINITION. Which instructions a word can stand for. Registers and literals are in range by their types; what
is left is that 0NNN excludes the two words with a meaning of their own (spec/30_encoding.md R89) and that
UNMAPPED holds a word no pattern selects (R87, R88). -/

namespace Sys2Proof

/-- 0NNN stands for every 0x0NNN but 0x00E0 and 0x00EE (R89, R114). -/
def wf0NNN (nnn : Addr12) : Bool := nnn != 0x0E0 && nnn != 0x0EE

/-- UNMAPPED stands for the words that none of the 35 patterns selects (R87, R88). -/
def wfUnmapped (w : Word) : Bool := opcodeRows.all fun r => !r.selects w

/-- The instruction is one that some word encodes. -/
def Instr.wf : Instr → Bool
  | .op0NNN nnn => wf0NNN nnn
  | .unmapped w => wfUnmapped w
  | .op00E0 => true
  | .op00EE => true
  | .op1NNN _ => true
  | .op2NNN _ => true
  | .op3XNN _ _ => true
  | .op4XNN _ _ => true
  | .op5XY0 _ _ => true
  | .op6XNN _ _ => true
  | .op7XNN _ _ => true
  | .op8XY0 _ _ => true
  | .op8XY1 _ _ => true
  | .op8XY2 _ _ => true
  | .op8XY3 _ _ => true
  | .op8XY4 _ _ => true
  | .op8XY5 _ _ => true
  | .op8XY6 _ _ => true
  | .op8XY7 _ _ => true
  | .op8XYE _ _ => true
  | .op9XY0 _ _ => true
  | .opANNN _ => true
  | .opBNNN _ => true
  | .opCXNN _ _ => true
  | .opDXYN _ _ _ => true
  | .opEX9E _ => true
  | .opEXA1 _ => true
  | .opFX07 _ => true
  | .opFX0A _ => true
  | .opFX15 _ => true
  | .opFX18 _ => true
  | .opFX1E _ => true
  | .opFX29 _ => true
  | .opFX33 _ => true
  | .opFX55 _ => true
  | .opFX65 _ => true

end Sys2Proof
end

