-- ==== Sys2Proof/Decode.lean ====
section
/-! DEFINITION. The decoder (spec/30_encoding.md R81, R84, R85), total on every word (R87), then the encoder,
written from the patterns of R86 and R98. -/

namespace Sys2Proof

/-- T = op[15:12] (R81). -/
def fieldT (w : Word) : Nibble := w.extractLsb' 12 4

/-- X = op[11:8] (R81). -/
def fieldX (w : Word) : Reg := (w.extractLsb' 8 4).toFin

/-- Y = op[7:4] (R81). -/
def fieldY (w : Word) : Reg := (w.extractLsb' 4 4).toFin

/-- N = op[3:0] (R81). -/
def fieldN (w : Word) : Nibble := w.extractLsb' 0 4

/-- NN = op[7:0] (R81). -/
def fieldNN (w : Word) : Byte := w.extractLsb' 0 8

/-- NNN = op[11:0] (R81). -/
def fieldNNN (w : Word) : Addr12 := w.extractLsb' 0 12

/-- T = 0: only the two exact words 0x00E0 and 0x00EE have an effect (R85, R89; C3). -/
def decode0 (w : Word) : Instr :=
  if w = 0x00E0 then .op00E0 else if w = 0x00EE then .op00EE else .op0NNN (fieldNNN w)

/-- T = 5: 5XY0 when N = 0, else unmapped (R84, R90; C4, log 17). -/
def decode5 (w : Word) : Instr :=
  if fieldN w = 0 then .op5XY0 (fieldX w) (fieldY w) else .unmapped w

/-- T = 8: secondary dispatch on N (R85). -/
def decode8 (w : Word) : Instr :=
  match (fieldN w).toNat with
  | 0x0 => .op8XY0 (fieldX w) (fieldY w)
  | 0x1 => .op8XY1 (fieldX w) (fieldY w)
  | 0x2 => .op8XY2 (fieldX w) (fieldY w)
  | 0x3 => .op8XY3 (fieldX w) (fieldY w)
  | 0x4 => .op8XY4 (fieldX w) (fieldY w)
  | 0x5 => .op8XY5 (fieldX w) (fieldY w)
  | 0x6 => .op8XY6 (fieldX w) (fieldY w)
  | 0x7 => .op8XY7 (fieldX w) (fieldY w)
  | 0xE => .op8XYE (fieldX w) (fieldY w)
  | _ => .unmapped w

/-- T = 9: 9XY0 when N = 0, else unmapped (R84, R90; C4, log 17). -/
def decode9 (w : Word) : Instr :=
  if fieldN w = 0 then .op9XY0 (fieldX w) (fieldY w) else .unmapped w

/-- T = 0xE: secondary dispatch on NN (R85). -/
def decodeE (w : Word) : Instr :=
  match (fieldNN w).toNat with
  | 0x9E => .opEX9E (fieldX w)
  | 0xA1 => .opEXA1 (fieldX w)
  | _ => .unmapped w

/-- T = 0xF: secondary dispatch on NN (R85). -/
def decodeF (w : Word) : Instr :=
  match (fieldNN w).toNat with
  | 0x07 => .opFX07 (fieldX w)
  | 0x0A => .opFX0A (fieldX w)
  | 0x15 => .opFX15 (fieldX w)
  | 0x18 => .opFX18 (fieldX w)
  | 0x1E => .opFX1E (fieldX w)
  | 0x29 => .opFX29 (fieldX w)
  | 0x33 => .opFX33 (fieldX w)
  | 0x55 => .opFX55 (fieldX w)
  | 0x65 => .opFX65 (fieldX w)
  | _ => .unmapped w

/-- The 16-way primary dispatch on T (R84). T is four bits, so the last arm is T = 0xF. -/
def decodeWord (w : Word) : Instr :=
  match (fieldT w).toNat with
  | 0x0 => decode0 w
  | 0x1 => .op1NNN (fieldNNN w)
  | 0x2 => .op2NNN (fieldNNN w)
  | 0x3 => .op3XNN (fieldX w) (fieldNN w)
  | 0x4 => .op4XNN (fieldX w) (fieldNN w)
  | 0x5 => decode5 w
  | 0x6 => .op6XNN (fieldX w) (fieldNN w)
  | 0x7 => .op7XNN (fieldX w) (fieldNN w)
  | 0x8 => decode8 w
  | 0x9 => decode9 w
  | 0xA => .opANNN (fieldNNN w)
  | 0xB => .opBNNN (fieldNNN w)
  | 0xC => .opCXNN (fieldX w) (fieldNN w)
  | 0xD => .opDXYN (fieldX w) (fieldY w) (fieldN w)
  | 0xE => decodeE w
  | _ => decodeF w

/-- Why bytes do not decode. Every word decodes (R87), so the one reason is that there is no whole word. -/
inductive Reject where
  /-- Raised by `decode` on fewer than two bytes: an instruction is two bytes (R80). The engine never meets it,
  because a fetch that misses a byte is the fatal condition of R188. Safe. -/
  | truncated
deriving DecidableEq, Repr

/-- The bytes of a word as memory holds them: high byte first (R64). -/
def wordBytes (w : Word) : List Byte := [w.extractLsb' 8 8, w.extractLsb' 0 8]

/-- Decode the first instruction of a byte sequence, high byte first (R64, R80), and give the bytes after it. -/
def decode : List Byte → Except Reject (Instr × List Byte)
  | hi :: lo :: rest => .ok (decodeWord (hi ++ lo), rest)
  | _ => .error .truncated

/-- The instruction the decoder reads from an opcode-table row's word w of nbits bits; bits above nbits are 0. -/
def decodeTableWord (nbits w : Nat) : Option Instr :=
  match decode (wordBytes (BitVec.ofNat 16 (w % 2 ^ nbits))) with
  | .ok (i, _) => some i
  | .error _ => none

/-- A register index as the four bits of a word. -/
def regBits (r : Reg) : Nibble := BitVec.ofFin r

/-- ADDR format: T, NNN (R82). -/
def addrWord (t : Nibble) (nnn : Addr12) : Word := t ++ nnn

/-- REGIMM and REGFN formats: T, X, NN or function byte (R82). -/
def regImmWord (t : Nibble) (x : Reg) (nn : Byte) : Word := t ++ regBits x ++ nn

/-- REGREG and DRAW formats: T, X, Y, N or function nibble (R82). -/
def regRegWord (t : Nibble) (x y : Reg) (n : Nibble) : Word := t ++ regBits x ++ regBits y ++ n

/-- The word of an instruction: its pattern with each letter replaced by its operand (R86, R98). -/
def encode : Instr → Word
  | .op00E0 => 0x00E0
  | .op00EE => 0x00EE
  | .op0NNN nnn => addrWord 0x0 nnn
  | .op1NNN nnn => addrWord 0x1 nnn
  | .op2NNN nnn => addrWord 0x2 nnn
  | .op3XNN x nn => regImmWord 0x3 x nn
  | .op4XNN x nn => regImmWord 0x4 x nn
  | .op5XY0 x y => regRegWord 0x5 x y 0x0
  | .op6XNN x nn => regImmWord 0x6 x nn
  | .op7XNN x nn => regImmWord 0x7 x nn
  | .op8XY0 x y => regRegWord 0x8 x y 0x0
  | .op8XY1 x y => regRegWord 0x8 x y 0x1
  | .op8XY2 x y => regRegWord 0x8 x y 0x2
  | .op8XY3 x y => regRegWord 0x8 x y 0x3
  | .op8XY4 x y => regRegWord 0x8 x y 0x4
  | .op8XY5 x y => regRegWord 0x8 x y 0x5
  | .op8XY6 x y => regRegWord 0x8 x y 0x6
  | .op8XY7 x y => regRegWord 0x8 x y 0x7
  | .op8XYE x y => regRegWord 0x8 x y 0xE
  | .op9XY0 x y => regRegWord 0x9 x y 0x0
  | .opANNN nnn => addrWord 0xA nnn
  | .opBNNN nnn => addrWord 0xB nnn
  | .opCXNN x nn => regImmWord 0xC x nn
  | .opDXYN x y n => regRegWord 0xD x y n
  | .opEX9E x => regImmWord 0xE x 0x9E
  | .opEXA1 x => regImmWord 0xE x 0xA1
  | .opFX07 x => regImmWord 0xF x 0x07
  | .opFX0A x => regImmWord 0xF x 0x0A
  | .opFX15 x => regImmWord 0xF x 0x15
  | .opFX18 x => regImmWord 0xF x 0x18
  | .opFX1E x => regImmWord 0xF x 0x1E
  | .opFX29 x => regImmWord 0xF x 0x29
  | .opFX33 x => regImmWord 0xF x 0x33
  | .opFX55 x => regImmWord 0xF x 0x55
  | .opFX65 x => regImmWord 0xF x 0x65
  | .unmapped w => w

end Sys2Proof
end

