-- ==== Sys2Proof/Config.lean ====
section
/-! DEFINITION. The implementation parameters of spec/00_scope.md R6, the events and the free values. An `opaque` constant
has no body: no proof can learn its value, so a claim about it holds whatever the platform fixes. -/

namespace Sys2Proof.Machine

/-- An event issued by the caller, or a change of the key input by the environment (spec/00_scope.md R8, R9;
log 3, log 4). -/
inductive Request where
  /-- `reset` (R215). -/
  | reset
  /-- `execute`: run exactly one instruction (R110). -/
  | execute
  /-- `updateTimers` (R180). -/
  | tick
  /-- The environment sets the 16 key levels (R60, R63). -/
  | keys (levels : BitVec 16)
deriving DecidableEq, Repr, Inhabited

end Sys2Proof.Machine

namespace Sys2Proof.Config

/-- MEM_SIZE, the canonical 4096 bytes (R6, D2; log 8). -/
abbrev memSize : Nat := 4096

/-- PROG_START, the canonical 0x200 (R6, D2; log 8). -/
abbrev progStart : Word := 0x200

/-- DISP_W, the canonical 64 pixels (R6, D2; log 8). -/
abbrev dispW : Nat := 64

/-- DISP_H, the canonical 32 pixels (R6, D2; log 8). -/
abbrev dispH : Nat := 32

/-- FONT_STRIDE: 5 bytes a glyph. PRESUMED (K2: the spec takes it from general knowledge; log 9). -/
abbrev fontStride : Nat := 5

/-- FONT_BASE: open, fixed by the platform under FONT_BASE + 16 * FONT_STRIDE <= MEM_SIZE (R6, D5). A FREE
VALUE in 0 .. 4016; the bound is in the type (log 9). -/
opaque fontBase : Fin 4017

/-- MEM_INIT where the platform loaded nothing: the byte at an address that was neither loaded nor written is
"unspecified, not zero" (D13, U8). A FREE VALUE of the address (log 5). -/
opaque memInit : Nat → Byte

/-- The random byte the environment supplies to the n-th executed CXNN when `State.randIn` holds none (R62,
R154, D14). A FREE VALUE (log 7). -/
opaque freeRandByte : Nat → Byte

/-- The n-th event of the free schedule: "any number of ticks, including none, may fall between two steps, and any
number of steps between two ticks", and the keys may change between any two events (R9, R181, D21). A FREE VALUE
(log 3). -/
opaque freeEvent : Nat → Machine.Request

end Sys2Proof.Config
end

