-- ==== Sys2Proof/Machine/State.lean ====
section
/-! DEFINITION. The state of the machine (spec/10_state.md R41), the reasons a step can stop, and the state
after reset (R39). Plain data throughout. -/

namespace Sys2Proof.Machine

/-- The name of a slot of the call stack, 0 to 15 (R29). -/
abbrev Slot := Fin 16

/-- Memory: the bytes that were loaded or written, by address, strictly rising; an address not listed holds no
loaded or written byte (R50, D13; log 5). -/
abbrev Memory := List Host.Cell

/-- One row of the pixel grid: bit x is the pixel in column x (R56; log 11). -/
abbrev PixelRow := BitVec 64

/-- The pixel grid `fb[y][x]`, 32 rows of 64 pixels (R56). -/
abbrev Display := Vector PixelRow 32

/-- What the caller and the environment do once `State.requests` is served (R9, R181; log 3). -/
inductive Schedule where
  /-- The caller issues steps and nothing else. -/
  | steps
  /-- The unending free schedule, from its event number `next` on: `Config.freeEvent`. -/
  | free (next : Nat)
deriving DecidableEq, Repr

/-- A fatal condition of the engine (spec/60_exceptions.md R185), with the address R188 and R189 record. -/
inductive Fatal where
  /-- 2NNN with SP = 15 (R186). -/
  | stackOverflow
  /-- 00EE with SP = 0 (R187). -/
  | stackUnderflow
  /-- A fetch at an address outside memory (R188). -/
  | memRangeFetch (addr : Nat)
  /-- A data access at an address outside memory (R189). -/
  | memRangeData (addr : Nat)
deriving DecidableEq, Repr

/-- The status a step returns to the caller (spec/40_fetch_dispatch.md R116). -/
inductive Status where
  | ok
  | faulted (code : BitVec 3) (pc : Word) (addr : BitVec 17)
deriving DecidableEq, Repr

/-- Everything the spec gives the machine (R41): the engine's state, the memory and the pixel grid it changes,
and, as data the step reads, the inputs and the events issued by the caller. -/
structure State where
  /-- V[0] to V[15]; V[15] is VF (R20, R22). -/
  v : Vector Byte 16
  /-- The index register I (R24). -/
  i : Word
  /-- The program counter; between events it is the address of the next instruction (R26). -/
  pc : Word
  /-- The call stack (R29). -/
  stack : Vector Word 16
  /-- The stack pointer (R30). -/
  sp : BitVec 4
  /-- The delay timer (R34). -/
  dt : Byte
  /-- The sound timer (R35). -/
  st : Byte
  /-- The fault latch: fault_code, 0 when no fault is recorded (R38, R191). -/
  faultCode : BitVec 3
  /-- The fault latch: fault_pc, the address of the faulting instruction (R38). -/
  faultPc : Word
  /-- The fault latch: fault_addr, the offending address of a MemRange fault (R38). -/
  faultAddr : BitVec 17
  /-- Memory (R50). -/
  mem : Memory
  /-- The pixel grid (R56). -/
  fb : Display
  /-- Input: bit k is the level of key k (R60). -/
  keys : BitVec 16
  /-- Input: random bytes the environment has already supplied, oldest first (R62; log 7). -/
  randIn : List Byte
  /-- The model's own counter: how many random bytes CXNN has sampled (log 7). -/
  randDraws : Nat
  /-- The events issued and not yet served, oldest first (R8; log 3). -/
  requests : List Request
  /-- Where the events after those come from (R9; log 3). -/
  schedule : Schedule
deriving DecidableEq, Repr

/-- Why the HOST's machine would stop with a fault: never. The three fatal conditions are states the spec
describes (the latch is written, the engine halts, ticks and reset still act), so they are next states (R190,
R194; log 1). No constructor. -/
inductive Fault : Type
deriving DecidableEq, Repr

/-- Why the machine would give no meaning. -/
inductive Refusal where
  /-- Raised only by an arm of `exec` whose instruction has no meaning yet. No arm is such. Safe. -/
  | notModelled (mnemonic : String)
deriving DecidableEq, Repr

/-- The state right after the reset event (R39). The engine's fields are the spec's. The pixel grid, the inputs
and the memory are not written by reset (R216): here the grid is clear (DESIGN CHOICE, log 6), no key is down
(DESIGN CHOICE, log 4), no byte is loaded (log 5), no random byte is supplied, no event is pending and the caller
issues steps (DESIGN CHOICE, log 7, log 3). -/
def State.reset : State where
  v := Vector.replicate 16 0
  i := 0
  pc := Config.progStart
  stack := Vector.replicate 16 0
  sp := 0
  dt := 0
  st := 0
  faultCode := 0
  faultPc := 0
  faultAddr := 0
  mem := []
  fb := Vector.replicate 32 0
  keys := 0
  randIn := []
  randDraws := 0
  requests := []
  schedule := .steps

end Sys2Proof.Machine
end

