-- ==== Sys2Proof/Machine/Operands.lean ====
section
/-! DEFINITION. Every operand form (spec/30_encoding.md R83, spec/43_memory_display_timer.md R174): registers,
literals, the low digit of a register, effective addresses, the key and random inputs. -/

namespace Sys2Proof.Machine

/-- The outcome type of every meaning. -/
abbrev Result := Host.Outcome State Fault Refusal

/-- `V[r]` (R12). -/
def State.reg (s : State) (r : Reg) : Byte := s.v[r]

/-- `stack[k]` (R12). -/
def State.slot (s : State) (k : Slot) : Word := s.stack[k]

/-- `fb[y][x]`, the contract's query-pixel (R56, R59); outside the grid there is no pixel, and the answer is
false. -/
def Display.pixel (fb : Display) (x y : Nat) : Bool := if h : y < 32 then fb[y].getLsbD x else false

/-- `fb[y][x]` of the machine's pixel grid (R12, R56). -/
def State.pixel (s : State) (x y : Nat) : Bool := Display.pixel s.fb x y

/-- `zext_16(NNN)` (R83). -/
def zextAddr (nnn : Addr12) : Word := nnn.setWidth 16

/-- `zext_16` of a byte (R131, R155). -/
def zextByte (b : Byte) : Word := b.setWidth 16

/-- `v[3:0]`: the key a VX names and the digit a VX names, its low four bits (R136, R137, R166; D5, D6, log 12). -/
def lowDigit (b : Byte) : Reg := (b.extractLsb' 0 4).toFin

/-- The effective address of the k-th byte of an access: the integer I + k, not narrowed (R54, R174; D11,
log 15). -/
def State.ea (s : State) (k : Nat) : Nat := s.i.toNat + k

/-- `KeyPressed(k)` (R60). -/
def State.keyPressed (s : State) (k : Reg) : Bool := s.keys.getLsbD k

/-- `FirstKey()`: the lowest-numbered pressed key, if any (R61; D7, log 13). -/
def State.firstKey (s : State) : Option Reg := (List.finRange 16).find? s.keyPressed

/-- `RandByte()`: the oldest byte the environment has supplied or, when it has supplied none in advance, the
free value of this draw (R62; D14, log 7). -/
def State.randByte (s : State) : Byte :=
  match s.randIn with
  | b :: _ => b
  | [] => Config.freeRandByte s.randDraws

end Sys2Proof.Machine
end

