-- ==== Sys2Proof/Machine/Flags.lean ====
section
/-! DEFINITION. Every result and flag computation of the ALU (spec/42_register_arithmetic.md R140) on unsigned
bytes; each flag is computed exactly, on integers, from the operands. -/

namespace Sys2Proof.Machine

/-- A flag as VF holds it: 0 or 1, zero-extended to 8 bits (R23). -/
def flagByte (b : Bool) : Byte := if b then 1 else 0

/-- Carry of `a + b` (R140, R148). -/
def carryFlag (a b : Byte) : Byte := flagByte (decide (a.toNat + b.toNat > 255))

/-- No-borrow of `a - b`; 1 when the operands are equal (R140, R149, R151). -/
def noBorrowFlag (a b : Byte) : Byte := flagByte (decide (a.toNat ≥ b.toNat))

/-- The bit a right shift by one drops (R140, R150). -/
def shiftRightFlag (a : Byte) : Byte := a &&& 1

/-- The bit a left shift by one drops (R140, R152). -/
def shiftLeftFlag (a : Byte) : Byte := flagByte (decide ((a &&& 0x80) ≠ 0))

/-- The hundreds digit of a byte (R167). -/
def bcdHundreds (b : Byte) : Byte := BitVec.ofNat 8 (b.toNat / 100)

/-- The tens digit of a byte (R167). -/
def bcdTens (b : Byte) : Byte := BitVec.ofNat 8 (b.toNat / 10 % 10)

/-- The ones digit of a byte (R167). -/
def bcdOnes (b : Byte) : Byte := BitVec.ofNat 8 (b.toNat % 10)

/-- A timer after one tick: one less, saturating at 0 (R34, R35, R180). -/
def countDown (b : Byte) : Byte := if b = 0 then 0 else b - 1

end Sys2Proof.Machine
end

