-- ==== Sys2Proof/Machine/Ops.lean ====
section
/-! DEFINITION. The operations every meaning is built from: registers and PC, memory
(spec/20_memory.md), the blit datapath (R58, R165), taking a fatal condition (spec/60_exceptions.md R190) and,
beside it, the only way out of it, reset (R195, R215). A meaning gets the state at the START of the step, where
PC is pc0 (log 2). -/

namespace Sys2Proof.Machine

/-! ### Registers and control -/

/-- `V[r] <- b` (R12). -/
def State.setReg (s : State) (r : Reg) (b : Byte) : State := { s with v := s.v.set r b }

/-- The fetch's increment: PC holds pc0 + 2 while a handler runs, modulo 65536 (R112). -/
def State.advance (s : State) : State := { s with pc := s.pc + 2 }

/-- `PC <- target` (R12). -/
def State.jump (s : State) (target : Word) : State := { s with pc := target }

/-- A skip: an additional PC += 2 on top of the fetch's own, when the condition holds (R125). -/
def State.skipIf (s : State) (c : Bool) : State := if c then s.advance.advance else s.advance

/-- The two writes of a flag-setting instruction, the flag to VF first and then the result to VX, so that with
X = 15 the result is what VF holds (R141; C1). -/
def State.setFlagged (s : State) (x : Reg) (flag result : Byte) : State := (s.setReg vF flag).setReg x result

/-- `stack[k] <- w` (R12). -/
def State.setSlot (s : State) (k : Slot) (w : Word) : State := { s with stack := s.stack.set k w }

/-- `V[r] <- f r` for every r in 0 .. x, the other registers as they were (R169). -/
def State.loadRegs (s : State) (x : Reg) (f : Nat → Byte) : State :=
  { s with v := Vector.ofFn fun r => if r ≤ x then f r else s.v[r] }

/-! ### Memory -/

/-- The loaded or written byte at an address, `none` where nobody loaded or wrote one. -/
def Memory.find : Memory → Nat → Option Byte
  | [], _ => none
  | (k, b) :: m, a => if k = a then some b else Memory.find m a

/-- What memory holds at an address: the loaded or written byte or, at an unlisted address, the free value
MEM_INIT (D13, U8; log 5). -/
def Memory.byteAt (m : Memory) (a : Nat) : Byte := (Memory.find m a).getD (Config.memInit a)

/-- Set one byte and keep the list strictly rising. -/
def Memory.put : Memory → Nat → Byte → Memory
  | [], a, b => [(a, b)]
  | (k, c) :: m, a, b =>
    if a < k then (a, b) :: (k, c) :: m
    else if a = k then (a, b) :: m
    else (k, c) :: Memory.put m a b

/-- Set consecutive bytes from an address upward. -/
def Memory.putList : Memory → Nat → List Byte → Memory
  | m, _, [] => m
  | m, a, b :: bs => Memory.putList (Memory.put m a b) (a + 1) bs

/-- Addresses strictly rise, each above the given bound from below. -/
def Memory.risingFrom : Nat → Memory → Bool
  | _, [] => true
  | lo, (k, _) :: m => decide (lo ≤ k) && Memory.risingFrom (k + 1) m

/-- The canonical form of memory: addresses strictly rising and all below MEM_SIZE. An unlisted address reads
as no loaded byte, so no entry equals it (log 5). -/
def Memory.wf (m : Memory) : Bool :=
  Memory.risingFrom 0 m && m.all fun c => decide (c.1 < Config.memSize)

/-- `MemRead(a, 1)`: the byte at a, or `none`, which is the report MemRange(a), when a >= MEM_SIZE (R52). -/
def State.memRead (s : State) (a : Nat) : Option Byte :=
  if a < Config.memSize then some (Memory.byteAt s.mem a) else none

/-- The bytes at the effective addresses I, ..., I + n - 1 (R165, R169). -/
def State.bytesAtI (s : State) (n : Nat) : List Byte := (List.range n).map fun k => Memory.byteAt s.mem (s.ea k)

/-- `MemWrite` of consecutive bytes at I, I + 1, ... (R53, R167, R168). -/
def State.storeAtI (s : State) (bs : List Byte) : State := { s with mem := Memory.putList s.mem (s.ea 0) bs }

/-- Of n addresses from a upward, the lowest that is outside memory (R165, R189, R192). -/
def lowestOutside : Nat → Nat → Option Nat
  | _, 0 => none
  | a, n + 1 => if a < Config.memSize then lowestOutside (a + 1) n else some a

/-! ### Fatal conditions -/

/-- The number of a fatal condition (R191). -/
def Fatal.code : Fatal → BitVec 3
  | .stackOverflow => 1
  | .stackUnderflow => 2
  | .memRangeFetch _ => 3
  | .memRangeData _ => 4

/-- What fault_addr records: the offending address of a MemRange fault, else 0 (R38, R186 to R189). -/
def Fatal.addr : Fatal → BitVec 17
  | .stackOverflow => 0
  | .stackUnderflow => 0
  | .memRangeFetch a => BitVec.ofNat 17 a
  | .memRangeData a => BitVec.ofNat 17 a

/-- `raise`: the latch is written with the code, pc0 and the address, and nothing else is; PC is still pc0
(R190, R193; D8, D9, C10, log 14). There is no handler: control goes back to the caller. -/
def raise (f : Fatal) (s : State) : Result :=
  .next { s with faultCode := f.code, faultPc := s.pc, faultAddr := f.addr }

/-- A data access of n bytes at I: when all of its addresses are in memory the step ends in `done`, else the
lowest address outside is raised and nothing is written (R189, R193). -/
def accessAtI (n : Nat) (s done : State) : Result :=
  match lowestOutside (s.ea 0) n with
  | some a => raise (.memRangeData a) s
  | none => .next done

/-- The reset event: every piece of engine state to its value of R39, the latch included; memory, the pixel
grid, the inputs and the pending events are not touched (R215, R216; log 18). -/
def resetEvent (s : State) : State :=
  { s with
    v := Vector.replicate 16 0, i := 0, pc := Config.progStart, stack := Vector.replicate 16 0, sp := 0,
    dt := 0, st := 0, faultCode := 0, faultPc := 0, faultAddr := 0 }

/-- The tick event `updateTimers`: both timers count down once and nothing else changes, faulted or not (R180;
D10). -/
def tickEvent (s : State) : State := { s with dt := countDown s.dt, st := countDown s.st }

/-! ### The display -/

/-- Every pixel to 0 (R57). -/
def clearDisplay : Display := Vector.replicate 32 0

/-- The pixels a sprite byte covers when its leftmost pixel, bit 7, is in column x: column x + c holds bit 7 - c
of the byte, and what falls past the right edge is cut (R58; D4, log 11). -/
def spriteMask (x : Nat) (b : Byte) : PixelRow := (b.reverse.setWidth 64) <<< x

/-- One row of the blit: the row after the XOR, and whether some pixel went from 1 to 0 (R58). -/
def blitRow (x : Nat) (b : Byte) (row : PixelRow) : PixelRow × Bool :=
  (row ^^^ spriteMask x b, decide ((row &&& spriteMask x b) ≠ 0))

/-- The rows of a sprite, from row y of the grid downward; rows past the bottom edge are not drawn (R165). -/
def blitRows (x : Nat) : Nat → List Byte → Display → Display × Bool
  | _, [], fb => (fb, false)
  | y, b :: bs, fb =>
    if h : y < 32 then
      let here := blitRow x b fb[y]
      let below := blitRows x (y + 1) bs (fb.set y here.1)
      (below.1, here.2 || below.2)
    else (fb, false)

/-- DXYN's draw: the origin wraps modulo the size of the grid, the sprite is clipped, VF is the collision (R165). -/
def State.drawSprite (s : State) (vx vy : Byte) (rows : List Byte) : State :=
  let drawn := blitRows (vx.toNat % Config.dispW) (vy.toNat % Config.dispH) rows s.fb
  { s with fb := drawn.1 }.setReg vF (flagByte drawn.2)

/-! ### The random source -/

/-- One random byte has been sampled (R62, R154; log 7). -/
def State.countDraw (s : State) : State :=
  { s with randIn := s.randIn.tail, randDraws := s.randDraws + 1 }

/-! ### Outputs and fetch -/

/-- The status a step that ended in this state returned to the caller (R116). -/
def State.status (s : State) : Status :=
  if s.faultCode = 0 then .ok else .faulted s.faultCode s.faultPc s.faultAddr

/-- The ST output (R36; D15). -/
def State.stOut (s : State) : Byte := s.st

/-- The output `sound_on` (R36; D15, log 25). -/
def State.soundOn (s : State) : Bool := decide (s.st ≠ 0)

/-- `Fetch(pc0)`: two byte reads, high byte first; PC + 1 is not narrowed. An error is the address MemRange
reports (R64, R111, R188). -/
def State.fetch (s : State) : Except Nat Word :=
  match s.memRead s.pc.toNat with
  | none => .error s.pc.toNat
  | some hi =>
    match s.memRead (s.pc.toNat + 1) with
    | none => .error (s.pc.toNat + 1)
    | some lo => .ok (hi ++ lo)

/-- The address the next instruction is placed at: PC, or PROG_START when no whole word fits in memory at PC. -/
def State.placeAt (s : State) : Word :=
  if s.pc.toNat + 1 < Config.memSize then s.pc else Config.progStart

/-- The platform's load of one instruction word where the next step fetches (R218), with what a fetch needs:
PC inside memory, no fault recorded, and a step as the next event (log 23). -/
def State.placeWord (s : State) (w : Word) : State :=
  { s with
    pc := s.placeAt, faultCode := 0, requests := [], schedule := .steps,
    mem := Memory.putList s.mem s.placeAt.toNat (wordBytes w) }

end Sys2Proof.Machine
end

