-- ==== Sys2Proof/Machine/ControlFlow.lean ====
section
/-! DEFINITION. The instructions of spec/41_control_flow.md. -/

namespace Sys2Proof.Machine

/-- 00E0: clear the display (R127). -/
def exec00E0 (s : State) : Result := .next { s.advance with fb := clearDisplay }

/-- 00EE: return; SP = 0 is the fatal StackUnderflow (R128, R187). -/
def exec00EE (s : State) : Result :=
  if s.sp = 0 then raise .stackUnderflow s
  else .next { s.jump (s.slot s.sp.toFin) with sp := s.sp - 1 }

/-- 1NNN: jump (R129). -/
def exec1NNN (nnn : Addr12) (s : State) : Result := .next (s.jump (zextAddr nnn))

/-- 2NNN: call; the slot above SP gets the already advanced PC; SP = 15 is the fatal StackOverflow (R130, R186). -/
def exec2NNN (nnn : Addr12) (s : State) : Result :=
  if s.sp = 15 then raise .stackOverflow s
  else .next ({ s.setSlot (s.sp + 1).toFin s.advance.pc with sp := s.sp + 1 }.jump (zextAddr nnn))

/-- BNNN: jump to NNN + V0, the sum not reduced to 12 bits (R131). -/
def execBNNN (nnn : Addr12) (s : State) : Result := .next (s.jump (zextAddr nnn + zextByte (s.reg 0)))

/-- 3XNN: skip if VX = NN (R132). -/
def exec3XNN (x : Reg) (nn : Byte) (s : State) : Result := .next (s.skipIf (s.reg x == nn))

/-- 4XNN: skip if VX differs from NN (R133). -/
def exec4XNN (x : Reg) (nn : Byte) (s : State) : Result := .next (s.skipIf (s.reg x != nn))

/-- 5XY0: skip if VX = VY (R134). -/
def exec5XY0 (x y : Reg) (s : State) : Result := .next (s.skipIf (s.reg x == s.reg y))

/-- 9XY0: skip if VX differs from VY (R135). -/
def exec9XY0 (x y : Reg) (s : State) : Result := .next (s.skipIf (s.reg x != s.reg y))

/-- EX9E: skip if the key VX[3:0] is down (R136). -/
def execEX9E (x : Reg) (s : State) : Result := .next (s.skipIf (s.keyPressed (lowDigit (s.reg x))))

/-- EXA1: skip if the key VX[3:0] is up (R137). -/
def execEXA1 (x : Reg) (s : State) : Result := .next (s.skipIf (!s.keyPressed (lowDigit (s.reg x))))

end Sys2Proof.Machine
end

