-- ==== Sys2Proof/Machine/MemoryDisplayTimer.lean ====
section
/-! DEFINITION. The instructions of spec/43_memory_display_timer.md. -/

namespace Sys2Proof.Machine

/-- DXYN: all N bytes at I are read first, then the sprite is drawn at (VX, VY) and VF is the collision; VX and
VY are those of before the step (R165; D12, log 16). -/
def execDXYN (x y : Reg) (n : Nibble) (s : State) : Result :=
  accessAtI n.toNat s (s.advance.drawSprite (s.reg x) (s.reg y) (s.bytesAtI n.toNat))

/-- FX29: I = FONT_BASE + FONT_STRIDE * VX[3:0]; no memory is read (R166; D5, log 9, log 12). -/
def execFX29 (x : Reg) (s : State) : Result :=
  .next { s.advance with i := BitVec.ofNat 16 (Config.fontBase.val + Config.fontStride * (lowDigit (s.reg x)).val) }

/-- FX33: the decimal digits of VX at I, I + 1, I + 2 (R167). -/
def execFX33 (x : Reg) (s : State) : Result :=
  accessAtI 3 s (s.advance.storeAtI [bcdHundreds (s.reg x), bcdTens (s.reg x), bcdOnes (s.reg x)])

/-- FX55: V0 to VX at I, ..., I + X; I is unchanged (R168). -/
def execFX55 (x : Reg) (s : State) : Result :=
  accessAtI (x.val + 1) s (s.advance.storeAtI (s.v.toList.take (x.val + 1)))

/-- FX65: V0 to VX from I, ..., I + X; I is unchanged (R169). -/
def execFX65 (x : Reg) (s : State) : Result :=
  accessAtI (x.val + 1) s (s.advance.loadRegs x fun k => Memory.byteAt s.mem (s.ea k))

/-- FX07: VX = DT (R170). -/
def execFX07 (x : Reg) (s : State) : Result := .next (s.advance.setReg x s.dt)

/-- FX15: DT = VX (R171). -/
def execFX15 (x : Reg) (s : State) : Result := .next { s.advance with dt := s.reg x }

/-- FX18: ST = VX (R172). -/
def execFX18 (x : Reg) (s : State) : Result := .next { s.advance with st := s.reg x }

/-- FX0A: with a key down VX is its number; with no key down the fetch's increment is cancelled and the whole
state is as before the step (R173; C2, D7, log 13). -/
def execFX0A (x : Reg) (s : State) : Result :=
  match s.firstKey with
  | some k => .next (s.advance.setReg x (BitVec.ofNat 8 k.val))
  | none => .next s

end Sys2Proof.Machine
end

