-- ==== Sys2Proof/Machine/NoOp.lean ====
section
/-! DEFINITION. The no-op instructions (spec/40_fetch_dispatch.md R114, R115). -/

namespace Sys2Proof.Machine

/-- 0NNN, NNN ignored: PC = pc0 + 2 and nothing else (R114). -/
def exec0NNN (_nnn : Addr12) (s : State) : Result := .next s.advance

/-- UNMAPPED: exactly the behaviour of 0NNN (R115; log 17). -/
def execUnmapped (_w : Word) (s : State) : Result := .next s.advance

end Sys2Proof.Machine
end

