-- ==== Sys2Proof/Machine/RegisterArith.lean ====
section
/-! DEFINITION. The instructions of spec/42_register_arithmetic.md. Every operand is read from the state before
the step (R12, R141; D3, log 10). -/

namespace Sys2Proof.Machine

/-- 6XNN: VX = NN (R142). -/
def exec6XNN (x : Reg) (nn : Byte) (s : State) : Result := .next (s.advance.setReg x nn)

/-- 7XNN: VX = VX + NN modulo 256, no flag (R143). -/
def exec7XNN (x : Reg) (nn : Byte) (s : State) : Result := .next (s.advance.setReg x (s.reg x + nn))

/-- 8XY0: VX = VY (R144). -/
def exec8XY0 (x y : Reg) (s : State) : Result := .next (s.advance.setReg x (s.reg y))

/-- 8XY1: VX = VX OR VY, no flag (R145). -/
def exec8XY1 (x y : Reg) (s : State) : Result := .next (s.advance.setReg x (s.reg x ||| s.reg y))

/-- 8XY2: VX = VX AND VY, no flag (R146). -/
def exec8XY2 (x y : Reg) (s : State) : Result := .next (s.advance.setReg x (s.reg x &&& s.reg y))

/-- 8XY3: VX = VX XOR VY, no flag (R147). -/
def exec8XY3 (x y : Reg) (s : State) : Result := .next (s.advance.setReg x (s.reg x ^^^ s.reg y))

/-- 8XY4: VF = carry, then VX = VX + VY modulo 256 (R148). -/
def exec8XY4 (x y : Reg) (s : State) : Result :=
  .next (s.advance.setFlagged x (carryFlag (s.reg x) (s.reg y)) (s.reg x + s.reg y))

/-- 8XY5: VF = no borrow, then VX = VX - VY modulo 256 (R149). -/
def exec8XY5 (x y : Reg) (s : State) : Result :=
  .next (s.advance.setFlagged x (noBorrowFlag (s.reg x) (s.reg y)) (s.reg x - s.reg y))

/-- 8XY6: VF = bit 0 of VX, then VX = VX shifted right by one; Y has no effect (R150). -/
def exec8XY6 (x _y : Reg) (s : State) : Result :=
  .next (s.advance.setFlagged x (shiftRightFlag (s.reg x)) (s.reg x >>> 1))

/-- 8XY7: VF = no borrow, then VX = VY - VX modulo 256 (R151). -/
def exec8XY7 (x y : Reg) (s : State) : Result :=
  .next (s.advance.setFlagged x (noBorrowFlag (s.reg y) (s.reg x)) (s.reg y - s.reg x))

/-- 8XYE: VF = bit 7 of VX, then VX = VX shifted left by one modulo 256; Y has no effect (R152). -/
def exec8XYE (x _y : Reg) (s : State) : Result :=
  .next (s.advance.setFlagged x (shiftLeftFlag (s.reg x)) (s.reg x <<< 1))

/-- ANNN: I = NNN (R153). -/
def execANNN (nnn : Addr12) (s : State) : Result := .next { s.advance with i := zextAddr nnn }

/-- CXNN: VX = random byte AND NN; exactly one byte is sampled (R154). -/
def execCXNN (x : Reg) (nn : Byte) (s : State) : Result :=
  .next (s.advance.countDraw.setReg x (s.randByte &&& nn))

/-- FX1E: I = I + VX modulo 65536, no flag (R155). -/
def execFX1E (x : Reg) (s : State) : Result := .next { s.advance with i := s.i + zextByte (s.reg x) }

end Sys2Proof.Machine
end

