-- ==== Sys2Proof/Machine/Events.lean ====
section
/-! DEFINITION. The events (spec/00_scope.md R8): the execute event and the service of one pending request. -/

namespace Sys2Proof.Machine

/-- The step event `execute` (R110): a halted engine does nothing (R117); a fetch outside memory is fatal (R188);
otherwise the fetched word's instruction runs. -/
def executeEvent (s : State) : Result :=
  if s.faultCode ≠ 0 then .next s
  else
    match s.fetch with
    | .error a => raise (.memRangeFetch a) s
    | .ok w => exec (decodeWord w) s

/-- One event, served whole before the next (R8; D1). -/
def serve (r : Request) (s : State) : Result :=
  match r with
  | .reset => .next (resetEvent s)
  | .execute => executeEvent s
  | .tick => .next (tickEvent s)
  | .keys levels => .next { s with keys := levels }

/-- The next event: the oldest pending request or, when none is pending, the next one of the schedule (R9; log 3). -/
def State.event (s : State) : Request :=
  match s.requests with
  | r :: _ => r
  | [] =>
    match s.schedule with
    | .steps => .execute
    | .free n => Config.freeEvent n

/-- The state with the next event taken from where it came from (log 3). -/
def State.taken (s : State) : State :=
  match s.requests with
  | _ :: rest => { s with requests := rest }
  | [] =>
    match s.schedule with
    | .steps => s
    | .free n => { s with schedule := .free (n + 1) }

/-- Serve the next event. -/
def serveNext (s : State) : Result := serve s.event s.taken

end Sys2Proof.Machine
end

