-- ==== Sys2Proof/Machine/Step.lean ====
section
/-! DEFINITION. One transition of the machine, and the placing of the word it fetches. -/

namespace Sys2Proof.Machine

/-- One transition: the next event, served whole (spec/00_scope.md R8, R9; log 3). -/
def step (s : State) : Host.Outcome State Fault Refusal := serveNext s

/-- The state with the instruction word w (bits above nbits zero) stored where `step` fetches its next
instruction, and with what that fetch needs (log 23). -/
def State.withFetchWord (s : State) (nbits w : Nat) : State := s.placeWord (BitVec.ofNat 16 (w % 2 ^ nbits))

end Sys2Proof.Machine
end

