-- ==== Sys2Proof/Safety.lean ====
section
/-! DEFINITION. What counts as a safe state and a safe run, in the terms claims use. -/

namespace Sys2Proof.Machine

/-- No fault is recorded: the premise of any claim about a run's end (spec/00_scope.md R9, spec/60_exceptions.md
R194). -/
def State.FaultFree (s : State) : Prop := s.faultCode = 0

/-- The caller's end-of-run predicate in the spec's own form: PC is the given address and no fault is recorded
(spec/70_reset_and_hazards.md R227; D19, log 21). -/
def State.EndsAt (s : State) (a : Word) : Prop := s.faultCode = 0 ∧ s.pc = a

/-- PC stands at a jump to itself, the usual way a program stops (R129, R227). -/
def State.AtSelfJump (s : State) : Prop := ∃ nnn, s.fetch = .ok (encode (.op1NNN nnn)) ∧ s.pc = zextAddr nnn

/-- The invariant every transition keeps. Each part is one promise of the spec about the whole machine. -/
structure State.Inv (s : State) : Prop where
  /-- Memory is in canonical form, inside MEM_SIZE (spec/20_memory.md R50; log 5). -/
  memory : Memory.wf s.mem = true
  /-- PC is far below the 16-bit wrap: at most 0x10FE, the largest BNNN target (spec/10_state.md R27, R28). -/
  pcBound : s.pc.toNat ≤ 0x10FE
  /-- Every saved return address is at most MEM_SIZE, the PC after the last fetchable instruction (R28, R130). -/
  slotBound : ∀ k, (s.slot k).toNat ≤ Config.memSize
  /-- Slot 0 is dead storage: zeroed by reset and never written (R33). -/
  slotZero : s.slot 0 = 0
  /-- fault_code never holds 5 to 7 (spec/60_exceptions.md R191). -/
  code : s.faultCode.toNat ≤ 4
  /-- With no fault recorded the rest of the latch is as reset left it (R38, R39). -/
  latchClear : s.faultCode = 0 → s.faultPc = 0 ∧ s.faultAddr = 0
  /-- A faulted engine's PC is still the address of the faulting instruction (R193). -/
  latchPc : s.faultCode ≠ 0 → s.faultPc = s.pc
  /-- A stack fault records address 0 and a memory fault an address outside memory (R186 to R189). -/
  latchAddr : (s.faultCode.toNat ≤ 2 → s.faultAddr = 0) ∧
    (3 ≤ s.faultCode.toNat → Config.memSize ≤ s.faultAddr.toNat)

end Sys2Proof.Machine
end

