-- ==== Sys2Proof/Certificates/Slice0/Obligations.lean ====
section
/-! DEFINITION. The statements for the provers. Each names the rule of spec/ it formalises; a clause that rests on a
decision or an inference the spec marks as its own, or on a choice of the model, says so. -/

namespace Sys2Proof.Frame
open Sys2Proof.Machine

/-! What an instruction leaves unchanged, one kind of state at a time. -/

/-- Every general register but those listed. -/
def regsBut (ds : List Reg) (s t : State) : Prop := ∀ r, r ∉ ds → t.reg r = s.reg r

/-- I. -/
def index (s t : State) : Prop := t.i = s.i

/-- SP and every slot of the call stack. -/
def callStack (s t : State) : Prop := t.sp = s.sp ∧ ∀ k, t.slot k = s.slot k

/-- DT and ST. -/
def timers (s t : State) : Prop := t.dt = s.dt ∧ t.st = s.st

/-- The fault latch. -/
def latch (s t : State) : Prop :=
  t.faultCode = s.faultCode ∧ t.faultPc = s.faultPc ∧ t.faultAddr = s.faultAddr

/-- Every byte of memory, read through MemRead. -/
def memory (s t : State) : Prop := ∀ a, t.memRead a = s.memRead a

/-- Every pixel. -/
def display (s t : State) : Prop := ∀ x y, t.pixel x y = s.pixel x y

/-- The key levels and the random source. -/
def inputs (s t : State) : Prop := t.keys = s.keys ∧ t.randIn = s.randIn ∧ t.randDraws = s.randDraws

/-- The events pending and the schedule after them. -/
def pending (s t : State) : Prop := t.requests = s.requests ∧ t.schedule = s.schedule

/-- Everything but the listed registers and PC. -/
def allBut (ds : List Reg) (s t : State) : Prop :=
  regsBut ds s t ∧ index s t ∧ callStack s t ∧ timers s t ∧ latch s t ∧ memory s t ∧ display s t ∧ inputs s t ∧
    pending s t

/-- Everything but the fault latch, PC included. -/
def allButLatch (s t : State) : Prop :=
  t.pc = s.pc ∧ regsBut [] s t ∧ index s t ∧ callStack s t ∧ timers s t ∧ memory s t ∧ display s t ∧ inputs s t ∧
    pending s t

/-- Everything but memory and PC. -/
def allButMemory (s t : State) : Prop :=
  regsBut [] s t ∧ index s t ∧ callStack s t ∧ timers s t ∧ latch s t ∧ display s t ∧ inputs s t ∧ pending s t

/-- Everything but I and PC. -/
def allButIndex (s t : State) : Prop :=
  regsBut [] s t ∧ callStack s t ∧ timers s t ∧ latch s t ∧ memory s t ∧ display s t ∧ inputs s t ∧ pending s t

/-- Everything but the call stack, SP and PC. -/
def allButStack (s t : State) : Prop :=
  regsBut [] s t ∧ index s t ∧ timers s t ∧ latch s t ∧ memory s t ∧ display s t ∧ inputs s t ∧ pending s t

/-! The tables of the spec the whole-machine statements are made over. -/

/-- The registers an instruction may write (spec/10_state.md R21). -/
def destinations : Instr → List Reg
  | .op00E0 => []
  | .op00EE => []
  | .op0NNN _ => []
  | .op1NNN _ => []
  | .op2NNN _ => []
  | .op3XNN _ _ => []
  | .op4XNN _ _ => []
  | .op5XY0 _ _ => []
  | .op6XNN x _ => [x]
  | .op7XNN x _ => [x]
  | .op8XY0 x _ => [x]
  | .op8XY1 x _ => [x]
  | .op8XY2 x _ => [x]
  | .op8XY3 x _ => [x]
  | .op8XY4 x _ => [vF, x]
  | .op8XY5 x _ => [vF, x]
  | .op8XY6 x _ => [vF, x]
  | .op8XY7 x _ => [vF, x]
  | .op8XYE x _ => [vF, x]
  | .op9XY0 _ _ => []
  | .opANNN _ => []
  | .opBNNN _ => []
  | .opCXNN x _ => [x]
  | .opDXYN _ _ _ => [vF]
  | .opEX9E _ => []
  | .opEXA1 _ => []
  | .opFX07 x => [x]
  | .opFX0A x => [x]
  | .opFX15 _ => []
  | .opFX18 _ => []
  | .opFX1E _ => []
  | .opFX29 _ => []
  | .opFX33 _ => []
  | .opFX55 _ => []
  | .opFX65 x => (List.finRange 16).filter fun r => r ≤ x
  | .unmapped _ => []

/-- How many bytes of memory from I upward an instruction's data access covers (spec/20_memory.md R51). -/
def dataBytes : Instr → Nat
  | .opDXYN _ _ n => n.toNat
  | .opFX33 _ => 3
  | .opFX55 x => x.val + 1
  | .opFX65 x => x.val + 1
  | _ => 0

/-- PC after a step that does not fault (spec/10_state.md R27). -/
def pcAfter (i : Instr) (s : State) : Word :=
  match i with
  | .op1NNN nnn => zextAddr nnn
  | .op2NNN nnn => zextAddr nnn
  | .opBNNN nnn => zextAddr nnn + zextByte (s.reg 0)
  | .op00EE => s.slot s.sp.toFin
  | .op3XNN x nn => if s.reg x = nn then s.pc + 4 else s.pc + 2
  | .op4XNN x nn => if s.reg x ≠ nn then s.pc + 4 else s.pc + 2
  | .op5XY0 x y => if s.reg x = s.reg y then s.pc + 4 else s.pc + 2
  | .op9XY0 x y => if s.reg x ≠ s.reg y then s.pc + 4 else s.pc + 2
  | .opEX9E x => if s.keys.getLsbD ((s.reg x).toNat % 16) then s.pc + 4 else s.pc + 2
  | .opEXA1 x => if s.keys.getLsbD ((s.reg x).toNat % 16) then s.pc + 2 else s.pc + 4
  | .opFX0A _ => if s.keys = 0 then s.pc else s.pc + 2
  | _ => s.pc + 2

/-- The condition under which an instruction's handler raises a fatal condition, and its code (spec/60_exceptions.md
R185, R191). -/
def handlerFault (i : Instr) (s : State) (code : BitVec 3) : Prop :=
  (∃ nnn, i = .op2NNN nnn ∧ s.sp = 15 ∧ code = 1) ∨
  (i = .op00EE ∧ s.sp = 0 ∧ code = 2) ∨
  (dataBytes i ≠ 0 ∧ Config.memSize < s.i.toNat + dataBytes i ∧ code = 4)

/-- The byte an instruction stores at an address, if it stores one there (R51, R167, R168). -/
def storedByte (i : Instr) (s : State) (a : Nat) : Option Byte :=
  match i with
  | .opFX33 x =>
    if a = s.i.toNat then some (BitVec.ofNat 8 ((s.reg x).toNat / 100))
    else if a = s.i.toNat + 1 then some (BitVec.ofNat 8 ((s.reg x).toNat / 10 % 10))
    else if a = s.i.toNat + 2 then some (BitVec.ofNat 8 ((s.reg x).toNat % 10))
    else none
  | .opFX55 x => if s.i.toNat ≤ a ∧ a ≤ s.i.toNat + x.val then s.v[a - s.i.toNat]? else none
  | _ => none

/-- The byte at an address after an instruction: the one it stores there, else the one memory held. -/
def byteAfter (i : Instr) (s : State) (a : Nat) : Byte := (storedByte i s a).getD (Memory.byteAt s.mem a)

/-- Bit 7 - c of the r-th of the sprite rows DXYN reads from memory (R58, R165). -/
def spriteBit (s : State) (r c : Nat) : Bool := (Memory.byteAt s.mem (s.ea r)).getLsbD (7 - c)

/-- Sprite pixel (r, c) of a draw of n rows at origin (x0, y0) falls inside the grid (R165). -/
def onGrid (n x0 y0 r c : Nat) : Prop := r < n ∧ c < 8 ∧ x0 + c < Config.dispW ∧ y0 + r < Config.dispH

end Sys2Proof.Frame

open Sys2Proof Sys2Proof.Machine

/-! ### Encoding -/

/-- 30_encoding.md R80 to R87, R98: every well-formed instruction, at every operand value, is what its own word
decodes to. -/
def Obligations.EncodeThenDecode : Prop := ∀ i : Instr, i.wf = true → decodeWord (encode i) = i

/-- R87: the decoder is total: each of the 65536 words decodes to a well-formed instruction. That the instruction's own
word is the word it came from, for the 17488 unmapped words too, is the model's choice (`unmapped` keeps its word, log
17); that 5XYN and 9XYN with N not 0 are among those is the spec's decision D16. -/
def Obligations.DecodeThenEncode : Prop :=
  ∀ w : Word, (decodeWord w).wf = true ∧ encode (decodeWord w) = w

/-- R86, R87: a word executes the first row of the opcode map, in priority order, that selects it, and is UNMAPPED
when no row does. -/
def Obligations.DecoderFollowsOpcodeMap : Prop :=
  ∀ w : Word, (decodeWord w).priority = ((opcodeRows.find? fun r => r.selects w).map OpRow.priority).getD 36

/-- Words of the spec's own examples and vectors (R98, 95_test_vectors.md), one for each format and the unmapped
spaces. -/
def Obligations.ExampleWordsDecode : Prop :=
  decodeWord 0x00EE = .op00EE ∧ decodeWord 0x01E0 = .op0NNN 0x1E0 ∧ decodeWord 0x12A0 = .op1NNN 0x2A0 ∧
  decodeWord 0x632A = .op6XNN 3 0x2A ∧ decodeWord 0x8AB4 = .op8XY4 10 11 ∧ decodeWord 0xD015 = .opDXYN 0 1 5 ∧
  decodeWord 0xF733 = .opFX33 7 ∧ decodeWord 0xE39E = .opEX9E 3 ∧ decodeWord 0x5121 = .unmapped 0x5121

/-- R64, R80: an instruction is two bytes, high byte first, and the bytes after it are left; fewer than two bytes
hold none. -/
def Obligations.DecodeTakesTwoBytesHighFirst : Prop :=
  (∀ hi lo rest, ∃ i, decode (hi :: lo :: rest) = .ok (i, rest) ∧ encode i = hi ++ lo) ∧
  (∀ bs : List Byte, bs.length < 2 → decode bs = .error .truncated)

/-! ### Fetch, step, events -/

/-- 40_fetch_dispatch.md R111: the fetch gives mem[pc0] ## mem[pc0 + 1] exactly when pc0 <= 4094; otherwise it
reports the first of the two addresses that is outside memory, and at pc0 = 4095 a step faults with fault_addr =
4096. -/
def Obligations.FetchIsTwoBytesHighFirst : Prop :=
  (∀ (s : State) (hi lo : Byte), s.memRead s.pc.toNat = some hi → s.memRead (s.pc.toNat + 1) = some lo →
    s.fetch = .ok (hi ++ lo)) ∧
  (∀ s : State, (∃ w, s.fetch = .ok w) ↔ s.pc.toNat ≤ 4094) ∧
  (∀ s : State, 4096 ≤ s.pc.toNat → s.fetch = .error s.pc.toNat) ∧
  (∀ s : State, s.pc.toNat = 4095 → s.fetch = .error 4096) ∧
  (∀ s : State, s.pc.toNat = 4095 → s.faultCode = 0 → s.event = .execute →
    ∃ t, step s = .next t ∧ t.faultCode ≠ 0 ∧ t.faultAddr = 4096)

/-- R110, R112, R113: when the bytes at PC decode to a well-formed instruction and the next event is a step, a
transition of an engine that is not halted is exactly that instruction's execution. The step may be the oldest pending
request, or come from the schedule when none is pending (the model's conventions, log 3; `EventsComeInOrder`). -/
def Obligations.StepRunsDecodedInstruction : Prop :=
  ∀ (s : State) (hi lo : Byte) (i : Instr), s.faultCode = 0 →
    s.memRead s.pc.toNat = some hi → s.memRead (s.pc.toNat + 1) = some lo →
    decode [hi, lo] = .ok (i, []) → i.wf = true →
    (s.event = .execute → step s = exec i s.taken) ∧
    (s.requests = [] → s.schedule = .steps → step s = exec i s) ∧
    (∀ rest, s.requests = .execute :: rest → step s = exec i { s with requests := rest })

/-- Log 23 (the model's): `withFetchWord` makes the very next transition run exactly the word it is given, in every
state. -/
def Obligations.PlacedWordRunsNext : Prop :=
  ∀ (s : State) (w : Word),
    step (s.withFetchWord 16 w.toNat) = exec (decodeWord w) (s.withFetchWord 16 w.toNat)

/-- 60_exceptions.md R188 (latch values: the spec's decision D8, D9): a step at a PC that is, or whose second byte
is, outside memory records code 3, pc0 and the lower address outside, and changes nothing else. -/
def Obligations.FetchOutsideMemoryIsFatal : Prop :=
  ∀ s : State, s.faultCode = 0 → s.event = .execute → 4095 ≤ s.pc.toNat →
    ∃ t, step s = .next t ∧ t.faultCode = 3 ∧ t.faultPc = s.pc ∧
      t.faultAddr.toNat = (if 4096 ≤ s.pc.toNat then s.pc.toNat else 4096) ∧ Frame.allButLatch s.taken t

/-- R117 (the spec's decision D10): a step issued to a halted engine changes nothing. -/
def Obligations.HaltedEngineDoesNothing : Prop :=
  ∀ s : State, s.faultCode ≠ 0 →
    (s.event = .execute → step s = .next s.taken) ∧
    (s.requests = [] → s.schedule = .steps → step s = .next s) ∧
    (∀ rest, s.requests = .execute :: rest → step s = .next { s with requests := rest })

/-- R194, R195 (the spec's decision D10): in a halted engine no transition but a reset changes the latch, PC, a
register, I, the stack, memory or a pixel; the reset clears the latch. -/
def Obligations.OnlyResetLeavesTheHalt : Prop :=
  ∀ s t : State, s.faultCode ≠ 0 → step s = .next t →
    (s.event = .reset → t.faultCode = 0 ∧ t.faultPc = 0 ∧ t.faultAddr = 0) ∧
    (s.event ≠ .reset →
      Frame.latch s t ∧ t.pc = s.pc ∧ Frame.regsBut [] s t ∧ Frame.index s t ∧ Frame.callStack s t ∧
        Frame.memory s t ∧ Frame.display s t)

/-- R87, R115, R185, R190: no state, event or word ends the machine: every transition answers a next state (a fatal
condition is one, log 1). -/
def Obligations.EveryTransitionAnswersNext : Prop := ∀ s : State, ∃ t, step s = .next t

/-- R185 (codes: the spec's decision D8; addresses not narrowed: D11, log 15; bytes of clipped rows count: D12, log 16),
the closed list of failing conditions: a step that records a fault met the fetch condition, or ran one of the six
instructions under its own condition. -/
def Obligations.FaultsAreTheClosedList : Prop :=
  ∀ s t : State, s.faultCode = 0 → s.event = .execute → step s = .next t → t.faultCode ≠ 0 →
    (4095 ≤ s.pc.toNat ∧ t.faultCode = 3) ∨
    (∃ w, s.fetch = .ok w ∧ Frame.handlerFault (decodeWord w) s t.faultCode)

/-- R185 (codes: the spec's decision D8, log 14; addresses not narrowed: D11, log 15; bytes of clipped rows count: D12,
log 16): conversely each of the four listed conditions, the three of the handlers and the one of the fetch, does record
its code and the address of the instruction. -/
def Obligations.ListedConditionsDoFault : Prop :=
  (∀ (i : Instr) (s t : State) (code : BitVec 3), Frame.handlerFault i s code → exec i s = .next t →
    t.faultCode = code ∧ t.faultPc = s.pc) ∧
  (∀ s t : State, s.faultCode = 0 → s.event = .execute → 4095 ≤ s.pc.toNat → step s = .next t →
    t.faultCode = 3 ∧ t.faultPc = s.pc)

/-- R193 (the spec's decision D9): a step that records a fault changes nothing but the latch, and fault_pc is the
address of its instruction. -/
def Obligations.FaultsArePrecise : Prop :=
  ∀ s t : State, s.faultCode = 0 → s.event = .execute → step s = .next t → t.faultCode ≠ 0 →
    t.faultPc = s.pc ∧ Frame.allButLatch s.taken t

/-! ### No-ops and control flow -/

/-- R114: 0NNN, for every NNN but 0x0E0 and 0x0EE, advances PC by 2 and changes nothing else. -/
def Obligations.NoOp0NNNOnlyAdvancesPc : Prop :=
  ∀ (nnn : Addr12) (s : State), nnn ≠ 0x0E0 → nnn ≠ 0x0EE →
    decodeWord (0x0#4 ++ nnn) = .op0NNN nnn ∧
    ∃ t, exec (.op0NNN nnn) s = .next t ∧ t.pc = s.pc + 2 ∧ Frame.allBut [] s t

/-- R115 (5XYN and 9XYN with N not 0: the spec's decision D16): a word no pattern selects advances PC by 2 and
changes nothing else. -/
def Obligations.UnmappedOnlyAdvancesPc : Prop :=
  ∀ (w : Word) (s : State), (∀ r ∈ opcodeRows, w &&& r.mask ≠ r.pattern) →
    decodeWord w = .unmapped w ∧
    ∃ t, exec (.unmapped w) s = .next t ∧ t.pc = s.pc + 2 ∧ Frame.allBut [] s t

/-- R127: 00E0 sets every pixel to 0, VF and every other register included in what it leaves alone. -/
def Obligations.ClearDisplaySetsEveryPixelZero : Prop :=
  ∀ s : State, decodeWord 0x00E0 = .op00E0 ∧
    ∃ t, exec .op00E0 s = .next t ∧ (∀ x y, t.pixel x y = false) ∧ t.pc = s.pc + 2 ∧ Frame.regsBut [] s t ∧
      Frame.index s t ∧ Frame.callStack s t ∧ Frame.timers s t ∧ Frame.latch s t ∧ Frame.memory s t ∧
      Frame.inputs s t ∧ Frame.pending s t

/-- R129: 1NNN; a jump to its own address changes no state; only NNN = 0xFFF leads to a fetch outside memory, by its
second byte at 4096. -/
def Obligations.JumpGoesToLiteral : Prop :=
  ∀ (nnn : Addr12) (s : State), decodeWord (0x1#4 ++ nnn) = .op1NNN nnn ∧
    ∃ t, exec (.op1NNN nnn) s = .next t ∧ t.pc.toNat = nnn.toNat ∧ Frame.allBut [] s t ∧
      (s.pc.toNat = nnn.toNat → t = s) ∧ (∀ a, t.fetch = .error a ↔ nnn = 0xFFF ∧ a = 4096)

/-- R130 (overflow: `StackLimitsAreFatal`): with SP below 15, 2NNN writes the already advanced PC to the slot above
SP, increments SP and jumps; the other slots are as they were. -/
def Obligations.CallPushesReturnAddress : Prop :=
  ∀ (nnn : Addr12) (s : State), s.sp ≠ 15 → decodeWord (0x2#4 ++ nnn) = .op2NNN nnn ∧
    ∃ t, exec (.op2NNN nnn) s = .next t ∧ t.pc.toNat = nnn.toNat ∧ t.sp.toNat = s.sp.toNat + 1 ∧
      t.slot t.sp.toFin = s.pc + 2 ∧ (∀ k, k ≠ t.sp.toFin → t.slot k = s.slot k) ∧ Frame.allButStack s t

/-- R128 (underflow: `StackLimitsAreFatal`): with SP above 0, 00EE loads PC from the slot SP names and decrements SP;
no slot is erased. -/
def Obligations.ReturnPopsStack : Prop :=
  ∀ s : State, s.sp ≠ 0 → decodeWord 0x00EE = .op00EE ∧
    ∃ t, exec .op00EE s = .next t ∧ t.pc = s.slot s.sp.toFin ∧ t.sp.toNat + 1 = s.sp.toNat ∧
      (∀ k, t.slot k = s.slot k) ∧ Frame.allButStack s t

/-- R186, R187 (latch: the spec's decisions D8, D9): 2NNN at SP = 15 records code 1 and 00EE at SP = 0 code 2, with
pc0 and address 0, and nothing else changes. -/
def Obligations.StackLimitsAreFatal : Prop :=
  (∀ (nnn : Addr12) (s : State), s.sp = 15 →
    ∃ t, exec (.op2NNN nnn) s = .next t ∧ t.faultCode = 1 ∧ t.faultPc = s.pc ∧ t.faultAddr = 0 ∧
      Frame.allButLatch s t) ∧
  (∀ s : State, s.sp = 0 →
    ∃ t, exec .op00EE s = .next t ∧ t.faultCode = 2 ∧ t.faultPc = s.pc ∧ t.faultAddr = 0 ∧ Frame.allButLatch s t)

/-- 95_test_vectors.md E4: a call and then a return resume at the instruction after the call with SP as before, and
leave everything but PC and the slot the call used as it was. -/
def Obligations.CallThenReturnResumes : Prop :=
  ∀ (nnn : Addr12) (s : State), s.sp ≠ 15 →
    ∃ t u, exec (.op2NNN nnn) s = .next t ∧ exec .op00EE t = .next u ∧ u.pc = s.pc + 2 ∧ u.sp = s.sp ∧
      (∀ k : Slot, k.val ≠ s.sp.toNat + 1 → u.slot k = s.slot k) ∧ Frame.allButStack s u

/-- R131: BNNN; always V0, the sum not reduced to 12 bits; a sum of 0xFFF or more, and no other, leaves PC where the
next fetch faults, at the sum itself or, for 0xFFF, at its second byte. -/
def Obligations.JumpWithOffsetAddsV0 : Prop :=
  ∀ (nnn : Addr12) (s : State), decodeWord (0xB#4 ++ nnn) = .opBNNN nnn ∧
    ∃ t, exec (.opBNNN nnn) s = .next t ∧ t.pc.toNat = nnn.toNat + (s.reg 0).toNat ∧ Frame.allBut [] s t ∧
      (∀ a, t.fetch = .error a ↔
        0xFFF ≤ nnn.toNat + (s.reg 0).toNat ∧ a = max (nnn.toNat + (s.reg 0).toNat) Config.memSize)

/-- R132, R133: 3XNN skips when VX = NN, 4XNN when VX differs from NN. -/
def Obligations.SkipsComparingLiteral : Prop :=
  ∀ (x : Reg) (nn : Byte) (s : State),
    (decodeWord (0x3#4 ++ regBits x ++ nn) = .op3XNN x nn ∧
      ∃ t, exec (.op3XNN x nn) s = .next t ∧ t.pc = (if s.reg x = nn then s.pc + 4 else s.pc + 2) ∧
        Frame.allBut [] s t) ∧
    (decodeWord (0x4#4 ++ regBits x ++ nn) = .op4XNN x nn ∧
      ∃ t, exec (.op4XNN x nn) s = .next t ∧ t.pc = (if s.reg x = nn then s.pc + 2 else s.pc + 4) ∧
        Frame.allBut [] s t)

/-- R134, R135: 5XY0 skips when VX = VY, 9XY0 when they differ; with X = Y the first always and the second never
does. -/
def Obligations.SkipsComparingRegisters : Prop :=
  ∀ (x y : Reg) (s : State),
    (decodeWord (0x5#4 ++ regBits x ++ regBits y ++ 0x0#4) = .op5XY0 x y ∧
      ∃ t, exec (.op5XY0 x y) s = .next t ∧ t.pc = (if s.reg x = s.reg y then s.pc + 4 else s.pc + 2) ∧
        (x = y → t.pc = s.pc + 4) ∧ Frame.allBut [] s t) ∧
    (decodeWord (0x9#4 ++ regBits x ++ regBits y ++ 0x0#4) = .op9XY0 x y ∧
      ∃ t, exec (.op9XY0 x y) s = .next t ∧ t.pc = (if s.reg x = s.reg y then s.pc + 2 else s.pc + 4) ∧
        (x = y → t.pc = s.pc + 2) ∧ Frame.allBut [] s t)

/-- R136, R137 (the key is VX[3:0]: the spec's decision D6, log 12): EX9E skips when the key is down, EXA1 when it is
up. -/
def Obligations.SkipsOnKeyLevel : Prop :=
  ∀ (x : Reg) (s : State),
    (decodeWord (0xE#4 ++ regBits x ++ 0x9E#8) = .opEX9E x ∧
      ∃ t, exec (.opEX9E x) s = .next t ∧
        t.pc = (if s.keys.getLsbD ((s.reg x).toNat % 16) then s.pc + 4 else s.pc + 2) ∧ Frame.allBut [] s t) ∧
    (decodeWord (0xE#4 ++ regBits x ++ 0xA1#8) = .opEXA1 x ∧
      ∃ t, exec (.opEXA1 x) s = .next t ∧
        t.pc = (if s.keys.getLsbD ((s.reg x).toNat % 16) then s.pc + 2 else s.pc + 4) ∧ Frame.allBut [] s t)

/-! ### Registers and arithmetic -/

/-- R142, R143, R144: load literal, add literal without a flag, copy; every register but VX, VF included unless X is
15, is unchanged. -/
def Obligations.LoadAddLiteralAndCopy : Prop :=
  ∀ (x y : Reg) (nn : Byte) (s : State),
    (decodeWord (0x6#4 ++ regBits x ++ nn) = .op6XNN x nn ∧
      ∃ t, exec (.op6XNN x nn) s = .next t ∧ t.reg x = nn ∧ t.pc = s.pc + 2 ∧ Frame.allBut [x] s t) ∧
    (decodeWord (0x7#4 ++ regBits x ++ nn) = .op7XNN x nn ∧
      ∃ t, exec (.op7XNN x nn) s = .next t ∧ (t.reg x).toNat = ((s.reg x).toNat + nn.toNat) % 256 ∧
        t.pc = s.pc + 2 ∧ Frame.allBut [x] s t) ∧
    (decodeWord (0x8#4 ++ regBits x ++ regBits y ++ 0x0#4) = .op8XY0 x y ∧
      ∃ t, exec (.op8XY0 x y) s = .next t ∧ t.reg x = s.reg y ∧ t.pc = s.pc + 2 ∧ Frame.allBut [x] s t)

/-- R145, R146, R147: OR, AND, XOR bit by bit; VF is not written unless it is the destination. -/
def Obligations.BitwiseLogicWritesNoFlag : Prop :=
  ∀ (x y : Reg) (s : State),
    (decodeWord (0x8#4 ++ regBits x ++ regBits y ++ 0x1#4) = .op8XY1 x y ∧
      ∃ t, exec (.op8XY1 x y) s = .next t ∧
        (∀ k, (t.reg x).getLsbD k = ((s.reg x).getLsbD k || (s.reg y).getLsbD k)) ∧ t.pc = s.pc + 2 ∧
        Frame.allBut [x] s t) ∧
    (decodeWord (0x8#4 ++ regBits x ++ regBits y ++ 0x2#4) = .op8XY2 x y ∧
      ∃ t, exec (.op8XY2 x y) s = .next t ∧
        (∀ k, (t.reg x).getLsbD k = ((s.reg x).getLsbD k && (s.reg y).getLsbD k)) ∧ t.pc = s.pc + 2 ∧
        Frame.allBut [x] s t) ∧
    (decodeWord (0x8#4 ++ regBits x ++ regBits y ++ 0x3#4) = .op8XY3 x y ∧
      ∃ t, exec (.op8XY3 x y) s = .next t ∧
        (∀ k, (t.reg x).getLsbD k = ((s.reg x).getLsbD k ^^ (s.reg y).getLsbD k)) ∧ t.pc = s.pc + 2 ∧
        Frame.allBut [x] s t)

/-- R148 (R141; that with X or Y = 15 the result too comes from the operands captured before the step is the spec's
decision D3, log 10): 8XY4 writes the sum modulo 256 to VX and, unless X = 15, the carry to VF. -/
def Obligations.AddWritesCarryThenSum : Prop :=
  ∀ (x y : Reg) (s : State),
    decodeWord (0x8#4 ++ regBits x ++ regBits y ++ 0x4#4) = .op8XY4 x y ∧
    ∃ t, exec (.op8XY4 x y) s = .next t ∧
      (t.reg x).toNat = ((s.reg x).toNat + (s.reg y).toNat) % 256 ∧
      (x ≠ vF → t.reg vF = if 255 < (s.reg x).toNat + (s.reg y).toNat then 1 else 0) ∧
      t.pc = s.pc + 2 ∧ Frame.allBut [vF, x] s t

/-- R149, R151 (R141; D3, log 10): 8XY5 and 8XY7 write the difference modulo 256 to VX and, unless X = 15, the
no-borrow flag, 1 on equal operands, to VF. -/
def Obligations.SubtractWritesNoBorrowThenDifference : Prop :=
  ∀ (x y : Reg) (s : State),
    (decodeWord (0x8#4 ++ regBits x ++ regBits y ++ 0x5#4) = .op8XY5 x y ∧
      ∃ t, exec (.op8XY5 x y) s = .next t ∧
        (t.reg x).toNat = ((s.reg x).toNat + 256 - (s.reg y).toNat) % 256 ∧
        (x ≠ vF → t.reg vF = if (s.reg y).toNat ≤ (s.reg x).toNat then 1 else 0) ∧
        t.pc = s.pc + 2 ∧ Frame.allBut [vF, x] s t) ∧
    (decodeWord (0x8#4 ++ regBits x ++ regBits y ++ 0x7#4) = .op8XY7 x y ∧
      ∃ t, exec (.op8XY7 x y) s = .next t ∧
        (t.reg x).toNat = ((s.reg y).toNat + 256 - (s.reg x).toNat) % 256 ∧
        (x ≠ vF → t.reg vF = if (s.reg x).toNat ≤ (s.reg y).toNat then 1 else 0) ∧
        t.pc = s.pc + 2 ∧ Frame.allBut [vF, x] s t)

/-- R150, R152 (R141; D3, log 10): the shifts by one use VX alone, whatever Y, and write the bit shifted out to VF
unless X = 15. -/
def Obligations.ShiftsWriteBitOutThenResult : Prop :=
  ∀ (x y : Reg) (s : State),
    (decodeWord (0x8#4 ++ regBits x ++ regBits y ++ 0x6#4) = .op8XY6 x y ∧
      ∃ t, exec (.op8XY6 x y) s = .next t ∧ (t.reg x).toNat = (s.reg x).toNat / 2 ∧
        (x ≠ vF → (t.reg vF).toNat = (s.reg x).toNat % 2) ∧ t.pc = s.pc + 2 ∧ Frame.allBut [vF, x] s t) ∧
    (decodeWord (0x8#4 ++ regBits x ++ regBits y ++ 0xE#4) = .op8XYE x y ∧
      ∃ t, exec (.op8XYE x y) s = .next t ∧ (t.reg x).toNat = (2 * (s.reg x).toNat) % 256 ∧
        (x ≠ vF → (t.reg vF).toNat = (s.reg x).toNat / 128) ∧ t.pc = s.pc + 2 ∧ Frame.allBut [vF, x] s t)

/-- R153, R155: ANNN loads I, FX1E adds VX to it modulo 65536; VF is not written. -/
def Obligations.IndexLoadAndAdd : Prop :=
  (∀ (nnn : Addr12) (s : State), decodeWord (0xA#4 ++ nnn) = .opANNN nnn ∧
    ∃ t, exec (.opANNN nnn) s = .next t ∧ t.i.toNat = nnn.toNat ∧ t.pc = s.pc + 2 ∧ Frame.allButIndex s t) ∧
  (∀ (x : Reg) (s : State), decodeWord (0xF#4 ++ regBits x ++ 0x1E#8) = .opFX1E x ∧
    ∃ t, exec (.opFX1E x) s = .next t ∧ t.i.toNat = (s.i.toNat + (s.reg x).toNat) % 65536 ∧ t.pc = s.pc + 2 ∧
      Frame.allButIndex s t)

/-- R154, R62 (the byte is an unconstrained draw: the spec's decision D14; where it comes from is the model's, log 7):
CXNN writes r AND NN for the random byte r, which is the oldest one supplied when there is one and else the free value
of this draw, so that no register is an operand; it samples exactly one. -/
def Obligations.RandomIsByteAndLiteral : Prop :=
  ∀ (x : Reg) (nn : Byte) (s : State), decodeWord (0xC#4 ++ regBits x ++ nn) = .opCXNN x nn ∧
    ∃ t, exec (.opCXNN x nn) s = .next t ∧ t.reg x = s.randByte &&& nn ∧
      (∀ b rest, s.randIn = b :: rest → s.randByte = b ∧ t.randIn = rest) ∧
      (s.randIn = [] → s.randByte = Config.freeRandByte s.randDraws ∧ t.randIn = []) ∧
      t.randDraws = s.randDraws + 1 ∧ t.pc = s.pc + 2 ∧ Frame.regsBut [x] s t ∧ Frame.index s t ∧
      Frame.callStack s t ∧ Frame.timers s t ∧ Frame.latch s t ∧ Frame.memory s t ∧ Frame.display s t ∧
      t.keys = s.keys ∧ Frame.pending s t

/-! ### Memory, display, timers, keys -/

/-- R165, R58 (bit 7 leftmost: D4, log 11; all N bytes read first: D12, log 16): DXYN with its bytes in memory XORs
the pixels of the clipped sprite, leaves every other pixel, and VF is 1 exactly when some pixel went from 1 to 0. -/
def Obligations.DrawXorsClippedSprite : Prop :=
  ∀ (x y : Reg) (n : Nibble) (s : State), n = 0 ∨ s.i.toNat + n.toNat ≤ Config.memSize →
    decodeWord (0xD#4 ++ regBits x ++ regBits y ++ n) = .opDXYN x y n ∧
    ∃ t, exec (.opDXYN x y n) s = .next t ∧ t.pc = s.pc + 2 ∧
      (∀ r c, Frame.onGrid n.toNat ((s.reg x).toNat % 64) ((s.reg y).toNat % 32) r c →
        t.pixel ((s.reg x).toNat % 64 + c) ((s.reg y).toNat % 32 + r) =
          (s.pixel ((s.reg x).toNat % 64 + c) ((s.reg y).toNat % 32 + r) ^^ Frame.spriteBit s r c)) ∧
      (∀ px py, (¬ ∃ r c, Frame.onGrid n.toNat ((s.reg x).toNat % 64) ((s.reg y).toNat % 32) r c ∧
        px = (s.reg x).toNat % 64 + c ∧ py = (s.reg y).toNat % 32 + r) → t.pixel px py = s.pixel px py) ∧
      (t.reg vF = 0 ∨ t.reg vF = 1) ∧
      (t.reg vF = 1 ↔ ∃ r c, Frame.onGrid n.toNat ((s.reg x).toNat % 64) ((s.reg y).toNat % 32) r c ∧
        Frame.spriteBit s r c = true ∧
        s.pixel ((s.reg x).toNat % 64 + c) ((s.reg y).toNat % 32 + r) = true) ∧
      Frame.regsBut [vF] s t ∧ Frame.index s t ∧ Frame.callStack s t ∧ Frame.timers s t ∧ Frame.latch s t ∧
      Frame.memory s t ∧ Frame.inputs s t ∧ Frame.pending s t

/-- R165 (which bit of a byte falls in which column, and so which lie inside the grid at the right edge: the spec's
decision D4, log 11): drawing the same sprite twice at the same place restores the grid. Where the pixels under the sprite were
clear, the first draw reports no collision and the second reports one exactly when the sprite has a 1 bit inside the
grid (R165 says the latter without the premise; a sprite bit over a set pixel is a counterexample, log 24). -/
def Obligations.DrawingTwiceRestoresGrid : Prop :=
  ∀ (x y : Reg) (n : Nibble) (s : State), n = 0 ∨ s.i.toNat + n.toNat ≤ Config.memSize →
    ∃ t u, exec (.opDXYN x y n) s = .next t ∧ exec (.opDXYN x y n) { t with v := s.v } = .next u ∧
      (∀ px py, u.pixel px py = s.pixel px py) ∧
      ((∀ r c, Frame.onGrid n.toNat ((s.reg x).toNat % 64) ((s.reg y).toNat % 32) r c →
          s.pixel ((s.reg x).toNat % 64 + c) ((s.reg y).toNat % 32 + r) = false) →
        t.reg vF = 0 ∧
        (u.reg vF = 1 ↔ ∃ r c, Frame.onGrid n.toNat ((s.reg x).toNat % 64) ((s.reg y).toNat % 32) r c ∧
          Frame.spriteBit s r c = true))

/-- R166 (FONT_BASE free, stride 5 and the low four bits of VX: the spec's decision D5, log 9, log 12): one base, inside
its bound, serves every digit, and FX29 reads no memory and writes I alone. -/
def Obligations.FontAddressIsBasePlusFivePerDigit : Prop :=
  ∃ base : Nat, base + 16 * 5 ≤ Config.memSize ∧ ∀ (x : Reg) (s : State),
    decodeWord (0xF#4 ++ regBits x ++ 0x29#8) = .opFX29 x ∧
    ∃ t, exec (.opFX29 x) s = .next t ∧ t.i.toNat = base + 5 * ((s.reg x).toNat % 16) ∧ t.pc = s.pc + 2 ∧
      Frame.allButIndex s t

/-- R167 (outside memory: `DataAccessOutsideMemoryIsFatal`): FX33 stores the three decimal digits of VX and no other
byte. -/
def Obligations.BcdStoresThreeDigits : Prop :=
  ∀ (x : Reg) (s : State), s.i.toNat + 3 ≤ Config.memSize →
    decodeWord (0xF#4 ++ regBits x ++ 0x33#8) = .opFX33 x ∧
    ∃ t h d o, exec (.opFX33 x) s = .next t ∧ t.memRead (s.ea 0) = some h ∧ t.memRead (s.ea 1) = some d ∧
      t.memRead (s.ea 2) = some o ∧ h.toNat = (s.reg x).toNat / 100 ∧ d.toNat = (s.reg x).toNat / 10 % 10 ∧
      o.toNat = (s.reg x).toNat % 10 ∧
      (∀ a, ¬ (s.ea 0 ≤ a ∧ a < s.ea 0 + 3) → t.memRead a = s.memRead a) ∧ t.pc = s.pc + 2 ∧
      Frame.allButMemory s t

/-- R168 (outside memory: `DataAccessOutsideMemoryIsFatal`): FX55 stores V0 to VX, V0 lowest, and no other byte. -/
def Obligations.StoreRegistersWritesV0ToVX : Prop :=
  ∀ (x : Reg) (s : State), s.i.toNat + x.val < Config.memSize →
    decodeWord (0xF#4 ++ regBits x ++ 0x55#8) = .opFX55 x ∧
    ∃ t, exec (.opFX55 x) s = .next t ∧ (∀ r : Reg, r ≤ x → t.memRead (s.ea r) = some (s.reg r)) ∧
      (∀ a, ¬ (s.ea 0 ≤ a ∧ a ≤ s.ea x) → t.memRead a = s.memRead a) ∧ t.pc = s.pc + 2 ∧ Frame.allButMemory s t

/-- R169 (outside memory: `DataAccessOutsideMemoryIsFatal`): FX65 loads V0 to VX, registers above X untouched, I and
every byte of memory unchanged. -/
def Obligations.LoadRegistersReadsV0ToVX : Prop :=
  ∀ (x : Reg) (s : State), s.i.toNat + x.val < Config.memSize →
    decodeWord (0xF#4 ++ regBits x ++ 0x65#8) = .opFX65 x ∧
    ∃ t, exec (.opFX65 x) s = .next t ∧ (∀ r : Reg, r ≤ x → s.memRead (s.ea r) = some (t.reg r)) ∧
      t.pc = s.pc + 2 ∧ Frame.allBut ((List.finRange 16).filter fun r => r ≤ x) s t

/-- R189 (code, precision and the lowest address: the spec's decisions D8, D9, log 14; not narrowed: D11, log 15; a DXYN
whose only bytes outside belong to clipped rows faults too: D12, log 16): DXYN with N >= 1,
FX33, FX55 and FX65 with an address outside memory record code 4, pc0 and max(I, MEM_SIZE), and write nothing else. -/
def Obligations.DataAccessOutsideMemoryIsFatal : Prop :=
  ∀ (i : Instr) (s : State), Frame.dataBytes i ≠ 0 → Config.memSize < s.i.toNat + Frame.dataBytes i →
    ∃ t, exec i s = .next t ∧ t.faultCode = 4 ∧ t.faultPc = s.pc ∧
      t.faultAddr.toNat = max s.i.toNat Config.memSize ∧ Frame.allButLatch s t

/-- 95_test_vectors.md E7: FX55, then any other register image, then FX65 with the same I and X restores V0 to VX
exactly and leaves the registers above X as they are at that moment. -/
def Obligations.DumpThenLoadRestoresRegisters : Prop :=
  ∀ (x : Reg) (s : State) (v' : Vector Byte 16), s.i.toNat + x.val < Config.memSize →
    ∃ t u, exec (.opFX55 x) s = .next t ∧ exec (.opFX65 x) { t with v := v' } = .next u ∧
      (∀ r : Reg, r ≤ x → u.reg r = s.reg r) ∧ (∀ r : Reg, x < r → u.reg r = v'[r]) ∧ u.i = s.i ∧
      Frame.memory t u

/-- R70 (derived by the spec): right after FX33 or FX55 a fetch anywhere in memory, the next instruction's and
one of the storing instruction's own bytes included, reads the stored bytes where the store covers an address, both
bytes or one alone, and the old byte elsewhere. -/
def Obligations.StoresAreSeenByNextFetch : Prop :=
  ∀ (i : Instr) (s : State), (∃ x, i = .opFX33 x ∨ i = .opFX55 x) → s.i.toNat + Frame.dataBytes i ≤ Config.memSize →
    ∃ t, exec i s = .next t ∧ t.pc = s.pc + 2 ∧
      ∀ q : Word, q.toNat ≤ 4094 →
        { t with pc := q }.fetch = .ok (Frame.byteAfter i s q.toNat ++ Frame.byteAfter i s (q.toNat + 1))

/-- R170, R171, R172: FX07 reads DT, FX15 sets DT, FX18 sets ST, and the outputs follow at once (that they are the whole
of ST and `sound_on`, ST not 0, is the spec's decision D15, log 25). -/
def Obligations.TimerInstructionsMoveOneTimer : Prop :=
  ∀ (x : Reg) (s : State),
    (decodeWord (0xF#4 ++ regBits x ++ 0x07#8) = .opFX07 x ∧
      ∃ t, exec (.opFX07 x) s = .next t ∧ t.reg x = s.dt ∧ t.pc = s.pc + 2 ∧ Frame.allBut [x] s t) ∧
    (decodeWord (0xF#4 ++ regBits x ++ 0x15#8) = .opFX15 x ∧
      ∃ t, exec (.opFX15 x) s = .next t ∧ t.dt = s.reg x ∧ t.st = s.st ∧ t.pc = s.pc + 2 ∧ Frame.regsBut [] s t ∧
        Frame.index s t ∧ Frame.callStack s t ∧ Frame.latch s t ∧ Frame.memory s t ∧ Frame.display s t ∧
        Frame.inputs s t ∧ Frame.pending s t) ∧
    (decodeWord (0xF#4 ++ regBits x ++ 0x18#8) = .opFX18 x ∧
      ∃ t, exec (.opFX18 x) s = .next t ∧ t.st = s.reg x ∧ t.stOut = s.reg x ∧
        (t.soundOn = true ↔ s.reg x ≠ 0) ∧ t.dt = s.dt ∧ t.pc = s.pc + 2 ∧ Frame.regsBut [] s t ∧ Frame.index s t ∧ Frame.callStack s t ∧ Frame.latch s t ∧
        Frame.memory s t ∧ Frame.display s t ∧ Frame.inputs s t ∧ Frame.pending s t)

/-- R173 (which key: the spec's decision D7, log 13): FX0A with a key down writes the lowest key's number and advances
PC. -/
def Obligations.KeyWaitTakesLowestKey : Prop :=
  ∀ (x k : Reg) (s : State), s.keys.getLsbD k = true → (∀ j : Reg, j < k → s.keys.getLsbD j = false) →
    decodeWord (0xF#4 ++ regBits x ++ 0x0A#8) = .opFX0A x ∧
    ∃ t, exec (.opFX0A x) s = .next t ∧ (t.reg x).toNat = k.val ∧ t.pc = s.pc + 2 ∧ Frame.allBut [x] s t

/-- R173: FX0A with no key down leaves the whole state, PC included, exactly as before the step. -/
def Obligations.KeyWaitHoldsWithoutKey : Prop :=
  ∀ (x : Reg) (s : State), s.keys = 0 → exec (.opFX0A x) s = .next s

/-- R180 (also in a faulted engine: the spec's decision D10, log 14): a tick is one transition that counts both timers
down by one, not below 0, and changes nothing else; n ticks count down by n, and the ST output (D15, log 25) follows. -/
def Obligations.TicksCountDownToZero : Prop :=
  (∀ s : State, s.event = .tick → step s = .next (tickEvent s.taken)) ∧
  (∀ (n : Nat) (s : State),
    (tickEvent^[n] s).dt.toNat = s.dt.toNat - n ∧ (tickEvent^[n] s).st.toNat = s.st.toNat - n ∧
    (tickEvent^[n] s).stOut.toNat = s.st.toNat - n ∧
    (tickEvent^[n] s).pc = s.pc ∧ Frame.regsBut [] s (tickEvent^[n] s) ∧ Frame.index s (tickEvent^[n] s) ∧
    Frame.callStack s (tickEvent^[n] s) ∧ Frame.latch s (tickEvent^[n] s) ∧ Frame.memory s (tickEvent^[n] s) ∧
    Frame.display s (tickEvent^[n] s) ∧ Frame.inputs s (tickEvent^[n] s) ∧ Frame.pending s (tickEvent^[n] s))

/-- R39, R215, R216 (that nothing outside the engine is touched is the spec's decision D13, log 18; the latch and its
values are D8, log 14; the outputs are D15, log 25): a reset is one transition, from any state, to the values of R39, with
memory, pixels and inputs as they were. -/
def Obligations.ResetReinitialisesTheEngine : Prop :=
  ∀ s : State, s.event = .reset →
    ∃ t, step s = .next t ∧ (∀ r, t.reg r = 0) ∧ t.i = 0 ∧ t.pc = 0x200 ∧ (∀ k, t.slot k = 0) ∧ t.sp = 0 ∧
      t.dt = 0 ∧ t.st = 0 ∧ t.stOut = 0 ∧ t.soundOn = false ∧ t.faultCode = 0 ∧ t.faultPc = 0 ∧ t.faultAddr = 0 ∧
      Frame.memory s t ∧ Frame.display s t ∧ Frame.inputs s t ∧ Frame.pending s.taken t

/-- R9, R63 (the event is the model's form of the environment's freedom, log 3, log 4): a change of the keys sets the 16
levels and nothing else. -/
def Obligations.KeyChangeSetsLevelsOnly : Prop :=
  ∀ (s : State) (levels : BitVec 16), s.event = .keys levels →
    ∃ t, step s = .next t ∧ t.keys = levels ∧ t.pc = s.pc ∧ Frame.regsBut [] s t ∧ Frame.index s t ∧
      Frame.callStack s t ∧ Frame.timers s t ∧ Frame.latch s t ∧ Frame.memory s t ∧ Frame.display s t ∧
      t.randIn = s.randIn ∧ t.randDraws = s.randDraws ∧ Frame.pending s.taken t

/-! ### The whole machine -/

/-- The invariant holds right after reset: R39 gives PC, the slots and, by the spec's decision D8 (log 14), the clear
latch; that memory lists nothing, which is canonical, is the model's DESIGN CHOICE (log 5). -/
def Obligations.InvariantHoldsAtReset : Prop := State.reset.Inv

/-- Every transition, whatever the event and the instruction, keeps the invariant: memory in canonical form, PC and
return addresses bounded (R28), slot 0 dead (R33), the latch one of the spec's five forms (R191; the spec's decisions
D8, D9). -/
def Obligations.EveryTransitionKeepsInvariant : Prop := ∀ s t : State, s.Inv → step s = .next t → t.Inv

/-- R21 (collected by the spec): no instruction writes a register outside its row of the table. -/
def Obligations.OnlyDestinationRegistersChange : Prop :=
  ∀ (i : Instr) (s t : State), exec i s = .next t → Frame.regsBut (Frame.destinations i) s t

/-- R27 (collected by the spec; that EX9E and EXA1 test the key of the low four bits of VX is the spec's decision D6, log
12): PC after every instruction that does not fault. -/
def Obligations.PcAfterEachInstruction : Prop :=
  ∀ (i : Instr) (s t : State), s.faultCode = 0 → exec i s = .next t → t.faultCode = 0 → t.pc = Frame.pcAfter i s

/-- R25, R30, R34, R35, R38, R51, R56, R62: each kind of state is changed only by the instructions the spec names for it
(general registers: `OnlyDestinationRegistersChange`; PC: `PcAfterEachInstruction`), and the fault latch only where a
listed condition holds (R38: the spec's decision D8, log 14; when: D11, D12, log 15, log 16); no instruction changes the
keys or the pending events. -/
def Obligations.EachStateHasItsOwnWriters : Prop :=
  ∀ (i : Instr) (s t : State), exec i s = .next t →
    ((∀ x, i ≠ .opFX33 x ∧ i ≠ .opFX55 x) → Frame.memory s t) ∧
    ((i ≠ .op00E0 ∧ ∀ x y n, i ≠ .opDXYN x y n) → Frame.display s t) ∧
    ((∀ x nnn, i ≠ .opANNN nnn ∧ i ≠ .opFX1E x ∧ i ≠ .opFX29 x) → Frame.index s t) ∧
    ((i ≠ .op00EE ∧ ∀ nnn, i ≠ .op2NNN nnn) → Frame.callStack s t) ∧
    ((∀ x, i ≠ .opFX15 x) → t.dt = s.dt) ∧ ((∀ x, i ≠ .opFX18 x) → t.st = s.st) ∧
    ((∀ x nn, i ≠ .opCXNN x nn) → t.randIn = s.randIn ∧ t.randDraws = s.randDraws) ∧
    ((∀ code, ¬ Frame.handlerFault i s code) → Frame.latch s t) ∧ t.keys = s.keys ∧ Frame.pending s t

/-- R35, R36: ST is write-only for a program: two states that differ in ST alone take the same transition but for
ST. -/
def Obligations.SoundTimerInfluencesNothing : Prop :=
  ∀ (s : State) (b : Byte),
    ∃ t u, step s = .next t ∧ step { s with st := b } = .next u ∧ u = { t with st := u.st }

/-- R38 (the latch is the spec's own, decision D8, log 14): no instruction reads the fault latch: two
states that differ in the latch alone run every instruction the same but for the latch. -/
def Obligations.LatchIsReadByNoInstruction : Prop :=
  ∀ (i : Instr) (s : State) (c : BitVec 3) (p : Word) (a : BitVec 17),
    ∃ t u, exec i s = .next t ∧ exec i { s with faultCode := c, faultPc := p, faultAddr := a } = .next u ∧
      u = { t with faultCode := u.faultCode, faultPc := u.faultPc, faultAddr := u.faultAddr }

/-- R60, R197: only EX9E, EXA1 and FX0A sample the keys: every other instruction runs the same under any levels. -/
def Obligations.KeysAreReadByThreeInstructions : Prop :=
  ∀ (i : Instr) (s : State) (levels : BitVec 16), (∀ x, i ≠ .opEX9E x ∧ i ≠ .opEXA1 x ∧ i ≠ .opFX0A x) →
    ∃ t, exec i s = .next t ∧ exec i { s with keys := levels } = .next { t with keys := levels }

/-- R129, R227: at a jump to itself a step changes nothing, and after any event but a reset PC is still at that jump and
the engine not halted, so for ever. -/
def Obligations.SelfJumpIsARestingState : Prop :=
  ∀ s : State, s.AtSelfJump → s.faultCode = 0 →
    (s.event = .execute → step s = .next s.taken) ∧
    (s.requests = [] → s.schedule = .steps → step s = .next s) ∧
    (s.event ≠ .reset → ∃ t, step s = .next t ∧ t.AtSelfJump ∧ t.pc = s.pc ∧ t.faultCode = 0)

/-- R8, R9, R181 (the form is the model's, log 3): events are served one a transition, pending requests oldest first and
then the schedule, which is steps alone or an unending free sequence of events; taking one changes nothing else. -/
def Obligations.EventsComeInOrder : Prop :=
  ∀ s : State,
    (∀ r rest, s.requests = r :: rest → s.event = r ∧ s.taken = { s with requests := rest }) ∧
    (s.requests = [] → s.schedule = .steps → s.event = .execute ∧ s.taken = s) ∧
    (∀ n, s.requests = [] → s.schedule = .free n →
      s.event = Config.freeEvent n ∧ s.taken = { s with schedule := .free (n + 1) }) ∧
    (s.event = .execute → step s = executeEvent s.taken) ∧
    (s.event = .tick → step s = .next (tickEvent s.taken)) ∧
    (s.event = .reset → step s = .next (resetEvent s.taken)) ∧
    (∀ levels, s.event = .keys levels → step s = .next { s.taken with keys := levels })

/-- R116, R117, R198 (status and latch: the spec's decisions D8, D10, log 14, log 25; the conditions: D11, D12, log 15, log
16): a step of an engine that is not halted returns Ok exactly when no listed condition holds, and otherwise Faulted with
a code, the address of its instruction and the address recorded; a halted engine's step returns Faulted with the latch it
had; a no-op, a word without a pattern and an FX0A, with a key or without, return Ok. -/
def Obligations.StatusReportsTheStep : Prop :=
  (∀ s t : State, s.event = .execute → step s = .next t →
    (s.faultCode = 0 →
      (t.status = .ok ↔ ∃ w, s.fetch = .ok w ∧ ∀ code, ¬ Frame.handlerFault (decodeWord w) s code) ∧
      (t.status ≠ .ok → t.faultCode ≠ 0 ∧ t.status = .faulted t.faultCode s.pc t.faultAddr)) ∧
    (s.faultCode ≠ 0 → t.status = .faulted s.faultCode s.faultPc s.faultAddr)) ∧
  (∀ (i : Instr) (s : State), s.faultCode = 0 →
    ((∃ nnn, i = .op0NNN nnn) ∨ (∃ w, i = .unmapped w) ∨ ∃ x, i = .opFX0A x) →
    ∃ t, exec i s = .next t ∧ t.status = .ok)
end

