-- ==== Sys2Proof/Laws/State.lean ====
section
/-! SUPPORT. One lemma per field per update of the state, so that no later proof unfolds a record update. -/

namespace Sys2Proof.Machine

variable (s : State)

/-! ### setReg -/

@[simp] theorem State.setReg_v (r : Reg) (b : Byte) : (s.setReg r b).v = s.v.set r b := rfl
@[simp] theorem State.setReg_i (r : Reg) (b : Byte) : (s.setReg r b).i = s.i := rfl
@[simp] theorem State.setReg_pc (r : Reg) (b : Byte) : (s.setReg r b).pc = s.pc := rfl
@[simp] theorem State.setReg_stack (r : Reg) (b : Byte) : (s.setReg r b).stack = s.stack := rfl
@[simp] theorem State.setReg_sp (r : Reg) (b : Byte) : (s.setReg r b).sp = s.sp := rfl
@[simp] theorem State.setReg_dt (r : Reg) (b : Byte) : (s.setReg r b).dt = s.dt := rfl
@[simp] theorem State.setReg_st (r : Reg) (b : Byte) : (s.setReg r b).st = s.st := rfl
@[simp] theorem State.setReg_faultCode (r : Reg) (b : Byte) : (s.setReg r b).faultCode = s.faultCode := rfl
@[simp] theorem State.setReg_faultPc (r : Reg) (b : Byte) : (s.setReg r b).faultPc = s.faultPc := rfl
@[simp] theorem State.setReg_faultAddr (r : Reg) (b : Byte) : (s.setReg r b).faultAddr = s.faultAddr := rfl
@[simp] theorem State.setReg_mem (r : Reg) (b : Byte) : (s.setReg r b).mem = s.mem := rfl
@[simp] theorem State.setReg_fb (r : Reg) (b : Byte) : (s.setReg r b).fb = s.fb := rfl
@[simp] theorem State.setReg_keys (r : Reg) (b : Byte) : (s.setReg r b).keys = s.keys := rfl
@[simp] theorem State.setReg_randIn (r : Reg) (b : Byte) : (s.setReg r b).randIn = s.randIn := rfl
@[simp] theorem State.setReg_randDraws (r : Reg) (b : Byte) : (s.setReg r b).randDraws = s.randDraws := rfl
@[simp] theorem State.setReg_requests (r : Reg) (b : Byte) : (s.setReg r b).requests = s.requests := rfl
@[simp] theorem State.setReg_schedule (r : Reg) (b : Byte) : (s.setReg r b).schedule = s.schedule := rfl

/-! ### advance -/

@[simp] theorem State.advance_v : (s.advance).v = s.v := rfl
@[simp] theorem State.advance_i : (s.advance).i = s.i := rfl
@[simp] theorem State.advance_pc : (s.advance).pc = s.pc + 2 := rfl
@[simp] theorem State.advance_stack : (s.advance).stack = s.stack := rfl
@[simp] theorem State.advance_sp : (s.advance).sp = s.sp := rfl
@[simp] theorem State.advance_dt : (s.advance).dt = s.dt := rfl
@[simp] theorem State.advance_st : (s.advance).st = s.st := rfl
@[simp] theorem State.advance_faultCode : (s.advance).faultCode = s.faultCode := rfl
@[simp] theorem State.advance_faultPc : (s.advance).faultPc = s.faultPc := rfl
@[simp] theorem State.advance_faultAddr : (s.advance).faultAddr = s.faultAddr := rfl
@[simp] theorem State.advance_mem : (s.advance).mem = s.mem := rfl
@[simp] theorem State.advance_fb : (s.advance).fb = s.fb := rfl
@[simp] theorem State.advance_keys : (s.advance).keys = s.keys := rfl
@[simp] theorem State.advance_randIn : (s.advance).randIn = s.randIn := rfl
@[simp] theorem State.advance_randDraws : (s.advance).randDraws = s.randDraws := rfl
@[simp] theorem State.advance_requests : (s.advance).requests = s.requests := rfl
@[simp] theorem State.advance_schedule : (s.advance).schedule = s.schedule := rfl

/-! ### jump -/

@[simp] theorem State.jump_v (w : Word) : (s.jump w).v = s.v := rfl
@[simp] theorem State.jump_i (w : Word) : (s.jump w).i = s.i := rfl
@[simp] theorem State.jump_pc (w : Word) : (s.jump w).pc = w := rfl
@[simp] theorem State.jump_stack (w : Word) : (s.jump w).stack = s.stack := rfl
@[simp] theorem State.jump_sp (w : Word) : (s.jump w).sp = s.sp := rfl
@[simp] theorem State.jump_dt (w : Word) : (s.jump w).dt = s.dt := rfl
@[simp] theorem State.jump_st (w : Word) : (s.jump w).st = s.st := rfl
@[simp] theorem State.jump_faultCode (w : Word) : (s.jump w).faultCode = s.faultCode := rfl
@[simp] theorem State.jump_faultPc (w : Word) : (s.jump w).faultPc = s.faultPc := rfl
@[simp] theorem State.jump_faultAddr (w : Word) : (s.jump w).faultAddr = s.faultAddr := rfl
@[simp] theorem State.jump_mem (w : Word) : (s.jump w).mem = s.mem := rfl
@[simp] theorem State.jump_fb (w : Word) : (s.jump w).fb = s.fb := rfl
@[simp] theorem State.jump_keys (w : Word) : (s.jump w).keys = s.keys := rfl
@[simp] theorem State.jump_randIn (w : Word) : (s.jump w).randIn = s.randIn := rfl
@[simp] theorem State.jump_randDraws (w : Word) : (s.jump w).randDraws = s.randDraws := rfl
@[simp] theorem State.jump_requests (w : Word) : (s.jump w).requests = s.requests := rfl
@[simp] theorem State.jump_schedule (w : Word) : (s.jump w).schedule = s.schedule := rfl

/-! ### setFlagged -/

@[simp] theorem State.setFlagged_v (x : Reg) (f b : Byte) : (s.setFlagged x f b).v = (s.v.set vF f).set x b := rfl
@[simp] theorem State.setFlagged_i (x : Reg) (f b : Byte) : (s.setFlagged x f b).i = s.i := rfl
@[simp] theorem State.setFlagged_pc (x : Reg) (f b : Byte) : (s.setFlagged x f b).pc = s.pc := rfl
@[simp] theorem State.setFlagged_stack (x : Reg) (f b : Byte) : (s.setFlagged x f b).stack = s.stack := rfl
@[simp] theorem State.setFlagged_sp (x : Reg) (f b : Byte) : (s.setFlagged x f b).sp = s.sp := rfl
@[simp] theorem State.setFlagged_dt (x : Reg) (f b : Byte) : (s.setFlagged x f b).dt = s.dt := rfl
@[simp] theorem State.setFlagged_st (x : Reg) (f b : Byte) : (s.setFlagged x f b).st = s.st := rfl
@[simp] theorem State.setFlagged_faultCode (x : Reg) (f b : Byte) : (s.setFlagged x f b).faultCode = s.faultCode := rfl
@[simp] theorem State.setFlagged_faultPc (x : Reg) (f b : Byte) : (s.setFlagged x f b).faultPc = s.faultPc := rfl
@[simp] theorem State.setFlagged_faultAddr (x : Reg) (f b : Byte) : (s.setFlagged x f b).faultAddr = s.faultAddr := rfl
@[simp] theorem State.setFlagged_mem (x : Reg) (f b : Byte) : (s.setFlagged x f b).mem = s.mem := rfl
@[simp] theorem State.setFlagged_fb (x : Reg) (f b : Byte) : (s.setFlagged x f b).fb = s.fb := rfl
@[simp] theorem State.setFlagged_keys (x : Reg) (f b : Byte) : (s.setFlagged x f b).keys = s.keys := rfl
@[simp] theorem State.setFlagged_randIn (x : Reg) (f b : Byte) : (s.setFlagged x f b).randIn = s.randIn := rfl
@[simp] theorem State.setFlagged_randDraws (x : Reg) (f b : Byte) : (s.setFlagged x f b).randDraws = s.randDraws := rfl
@[simp] theorem State.setFlagged_requests (x : Reg) (f b : Byte) : (s.setFlagged x f b).requests = s.requests := rfl
@[simp] theorem State.setFlagged_schedule (x : Reg) (f b : Byte) : (s.setFlagged x f b).schedule = s.schedule := rfl

/-! ### setSlot -/

@[simp] theorem State.setSlot_v (k : Slot) (w : Word) : (s.setSlot k w).v = s.v := rfl
@[simp] theorem State.setSlot_i (k : Slot) (w : Word) : (s.setSlot k w).i = s.i := rfl
@[simp] theorem State.setSlot_pc (k : Slot) (w : Word) : (s.setSlot k w).pc = s.pc := rfl
@[simp] theorem State.setSlot_stack (k : Slot) (w : Word) : (s.setSlot k w).stack = s.stack.set k w := rfl
@[simp] theorem State.setSlot_sp (k : Slot) (w : Word) : (s.setSlot k w).sp = s.sp := rfl
@[simp] theorem State.setSlot_dt (k : Slot) (w : Word) : (s.setSlot k w).dt = s.dt := rfl
@[simp] theorem State.setSlot_st (k : Slot) (w : Word) : (s.setSlot k w).st = s.st := rfl
@[simp] theorem State.setSlot_faultCode (k : Slot) (w : Word) : (s.setSlot k w).faultCode = s.faultCode := rfl
@[simp] theorem State.setSlot_faultPc (k : Slot) (w : Word) : (s.setSlot k w).faultPc = s.faultPc := rfl
@[simp] theorem State.setSlot_faultAddr (k : Slot) (w : Word) : (s.setSlot k w).faultAddr = s.faultAddr := rfl
@[simp] theorem State.setSlot_mem (k : Slot) (w : Word) : (s.setSlot k w).mem = s.mem := rfl
@[simp] theorem State.setSlot_fb (k : Slot) (w : Word) : (s.setSlot k w).fb = s.fb := rfl
@[simp] theorem State.setSlot_keys (k : Slot) (w : Word) : (s.setSlot k w).keys = s.keys := rfl
@[simp] theorem State.setSlot_randIn (k : Slot) (w : Word) : (s.setSlot k w).randIn = s.randIn := rfl
@[simp] theorem State.setSlot_randDraws (k : Slot) (w : Word) : (s.setSlot k w).randDraws = s.randDraws := rfl
@[simp] theorem State.setSlot_requests (k : Slot) (w : Word) : (s.setSlot k w).requests = s.requests := rfl
@[simp] theorem State.setSlot_schedule (k : Slot) (w : Word) : (s.setSlot k w).schedule = s.schedule := rfl

/-! ### loadRegs -/

@[simp] theorem State.loadRegs_v (x : Reg) (f : Nat → Byte) : (s.loadRegs x f).v = Vector.ofFn fun r => if r ≤ x then f r else s.v[r] := rfl
@[simp] theorem State.loadRegs_i (x : Reg) (f : Nat → Byte) : (s.loadRegs x f).i = s.i := rfl
@[simp] theorem State.loadRegs_pc (x : Reg) (f : Nat → Byte) : (s.loadRegs x f).pc = s.pc := rfl
@[simp] theorem State.loadRegs_stack (x : Reg) (f : Nat → Byte) : (s.loadRegs x f).stack = s.stack := rfl
@[simp] theorem State.loadRegs_sp (x : Reg) (f : Nat → Byte) : (s.loadRegs x f).sp = s.sp := rfl
@[simp] theorem State.loadRegs_dt (x : Reg) (f : Nat → Byte) : (s.loadRegs x f).dt = s.dt := rfl
@[simp] theorem State.loadRegs_st (x : Reg) (f : Nat → Byte) : (s.loadRegs x f).st = s.st := rfl
@[simp] theorem State.loadRegs_faultCode (x : Reg) (f : Nat → Byte) : (s.loadRegs x f).faultCode = s.faultCode := rfl
@[simp] theorem State.loadRegs_faultPc (x : Reg) (f : Nat → Byte) : (s.loadRegs x f).faultPc = s.faultPc := rfl
@[simp] theorem State.loadRegs_faultAddr (x : Reg) (f : Nat → Byte) : (s.loadRegs x f).faultAddr = s.faultAddr := rfl
@[simp] theorem State.loadRegs_mem (x : Reg) (f : Nat → Byte) : (s.loadRegs x f).mem = s.mem := rfl
@[simp] theorem State.loadRegs_fb (x : Reg) (f : Nat → Byte) : (s.loadRegs x f).fb = s.fb := rfl
@[simp] theorem State.loadRegs_keys (x : Reg) (f : Nat → Byte) : (s.loadRegs x f).keys = s.keys := rfl
@[simp] theorem State.loadRegs_randIn (x : Reg) (f : Nat → Byte) : (s.loadRegs x f).randIn = s.randIn := rfl
@[simp] theorem State.loadRegs_randDraws (x : Reg) (f : Nat → Byte) : (s.loadRegs x f).randDraws = s.randDraws := rfl
@[simp] theorem State.loadRegs_requests (x : Reg) (f : Nat → Byte) : (s.loadRegs x f).requests = s.requests := rfl
@[simp] theorem State.loadRegs_schedule (x : Reg) (f : Nat → Byte) : (s.loadRegs x f).schedule = s.schedule := rfl

/-! ### storeAtI -/

@[simp] theorem State.storeAtI_v (bs : List Byte) : (s.storeAtI bs).v = s.v := rfl
@[simp] theorem State.storeAtI_i (bs : List Byte) : (s.storeAtI bs).i = s.i := rfl
@[simp] theorem State.storeAtI_pc (bs : List Byte) : (s.storeAtI bs).pc = s.pc := rfl
@[simp] theorem State.storeAtI_stack (bs : List Byte) : (s.storeAtI bs).stack = s.stack := rfl
@[simp] theorem State.storeAtI_sp (bs : List Byte) : (s.storeAtI bs).sp = s.sp := rfl
@[simp] theorem State.storeAtI_dt (bs : List Byte) : (s.storeAtI bs).dt = s.dt := rfl
@[simp] theorem State.storeAtI_st (bs : List Byte) : (s.storeAtI bs).st = s.st := rfl
@[simp] theorem State.storeAtI_faultCode (bs : List Byte) : (s.storeAtI bs).faultCode = s.faultCode := rfl
@[simp] theorem State.storeAtI_faultPc (bs : List Byte) : (s.storeAtI bs).faultPc = s.faultPc := rfl
@[simp] theorem State.storeAtI_faultAddr (bs : List Byte) : (s.storeAtI bs).faultAddr = s.faultAddr := rfl
@[simp] theorem State.storeAtI_mem (bs : List Byte) : (s.storeAtI bs).mem = Memory.putList s.mem (s.ea 0) bs := rfl
@[simp] theorem State.storeAtI_fb (bs : List Byte) : (s.storeAtI bs).fb = s.fb := rfl
@[simp] theorem State.storeAtI_keys (bs : List Byte) : (s.storeAtI bs).keys = s.keys := rfl
@[simp] theorem State.storeAtI_randIn (bs : List Byte) : (s.storeAtI bs).randIn = s.randIn := rfl
@[simp] theorem State.storeAtI_randDraws (bs : List Byte) : (s.storeAtI bs).randDraws = s.randDraws := rfl
@[simp] theorem State.storeAtI_requests (bs : List Byte) : (s.storeAtI bs).requests = s.requests := rfl
@[simp] theorem State.storeAtI_schedule (bs : List Byte) : (s.storeAtI bs).schedule = s.schedule := rfl

/-! ### drawSprite -/

@[simp] theorem State.drawSprite_v (a b : Byte) (bs : List Byte) : (s.drawSprite a b bs).v = s.v.set vF (flagByte (blitRows (a.toNat % 64) (b.toNat % 32) bs s.fb).2) := rfl
@[simp] theorem State.drawSprite_i (a b : Byte) (bs : List Byte) : (s.drawSprite a b bs).i = s.i := rfl
@[simp] theorem State.drawSprite_pc (a b : Byte) (bs : List Byte) : (s.drawSprite a b bs).pc = s.pc := rfl
@[simp] theorem State.drawSprite_stack (a b : Byte) (bs : List Byte) : (s.drawSprite a b bs).stack = s.stack := rfl
@[simp] theorem State.drawSprite_sp (a b : Byte) (bs : List Byte) : (s.drawSprite a b bs).sp = s.sp := rfl
@[simp] theorem State.drawSprite_dt (a b : Byte) (bs : List Byte) : (s.drawSprite a b bs).dt = s.dt := rfl
@[simp] theorem State.drawSprite_st (a b : Byte) (bs : List Byte) : (s.drawSprite a b bs).st = s.st := rfl
@[simp] theorem State.drawSprite_faultCode (a b : Byte) (bs : List Byte) : (s.drawSprite a b bs).faultCode = s.faultCode := rfl
@[simp] theorem State.drawSprite_faultPc (a b : Byte) (bs : List Byte) : (s.drawSprite a b bs).faultPc = s.faultPc := rfl
@[simp] theorem State.drawSprite_faultAddr (a b : Byte) (bs : List Byte) : (s.drawSprite a b bs).faultAddr = s.faultAddr := rfl
@[simp] theorem State.drawSprite_mem (a b : Byte) (bs : List Byte) : (s.drawSprite a b bs).mem = s.mem := rfl
@[simp] theorem State.drawSprite_fb (a b : Byte) (bs : List Byte) : (s.drawSprite a b bs).fb = (blitRows (a.toNat % 64) (b.toNat % 32) bs s.fb).1 := rfl
@[simp] theorem State.drawSprite_keys (a b : Byte) (bs : List Byte) : (s.drawSprite a b bs).keys = s.keys := rfl
@[simp] theorem State.drawSprite_randIn (a b : Byte) (bs : List Byte) : (s.drawSprite a b bs).randIn = s.randIn := rfl
@[simp] theorem State.drawSprite_randDraws (a b : Byte) (bs : List Byte) : (s.drawSprite a b bs).randDraws = s.randDraws := rfl
@[simp] theorem State.drawSprite_requests (a b : Byte) (bs : List Byte) : (s.drawSprite a b bs).requests = s.requests := rfl
@[simp] theorem State.drawSprite_schedule (a b : Byte) (bs : List Byte) : (s.drawSprite a b bs).schedule = s.schedule := rfl

/-! ### countDraw -/

@[simp] theorem State.countDraw_v : (s.countDraw).v = s.v := rfl
@[simp] theorem State.countDraw_i : (s.countDraw).i = s.i := rfl
@[simp] theorem State.countDraw_pc : (s.countDraw).pc = s.pc := rfl
@[simp] theorem State.countDraw_stack : (s.countDraw).stack = s.stack := rfl
@[simp] theorem State.countDraw_sp : (s.countDraw).sp = s.sp := rfl
@[simp] theorem State.countDraw_dt : (s.countDraw).dt = s.dt := rfl
@[simp] theorem State.countDraw_st : (s.countDraw).st = s.st := rfl
@[simp] theorem State.countDraw_faultCode : (s.countDraw).faultCode = s.faultCode := rfl
@[simp] theorem State.countDraw_faultPc : (s.countDraw).faultPc = s.faultPc := rfl
@[simp] theorem State.countDraw_faultAddr : (s.countDraw).faultAddr = s.faultAddr := rfl
@[simp] theorem State.countDraw_mem : (s.countDraw).mem = s.mem := rfl
@[simp] theorem State.countDraw_fb : (s.countDraw).fb = s.fb := rfl
@[simp] theorem State.countDraw_keys : (s.countDraw).keys = s.keys := rfl
@[simp] theorem State.countDraw_randIn : (s.countDraw).randIn = s.randIn.tail := rfl
@[simp] theorem State.countDraw_randDraws : (s.countDraw).randDraws = s.randDraws + 1 := rfl
@[simp] theorem State.countDraw_requests : (s.countDraw).requests = s.requests := rfl
@[simp] theorem State.countDraw_schedule : (s.countDraw).schedule = s.schedule := rfl

/-! ### resetEvent -/

@[simp] theorem resetEvent_v : (resetEvent s).v = Vector.replicate 16 0 := rfl
@[simp] theorem resetEvent_i : (resetEvent s).i = 0 := rfl
@[simp] theorem resetEvent_pc : (resetEvent s).pc = Config.progStart := rfl
@[simp] theorem resetEvent_stack : (resetEvent s).stack = Vector.replicate 16 0 := rfl
@[simp] theorem resetEvent_sp : (resetEvent s).sp = 0 := rfl
@[simp] theorem resetEvent_dt : (resetEvent s).dt = 0 := rfl
@[simp] theorem resetEvent_st : (resetEvent s).st = 0 := rfl
@[simp] theorem resetEvent_faultCode : (resetEvent s).faultCode = 0 := rfl
@[simp] theorem resetEvent_faultPc : (resetEvent s).faultPc = 0 := rfl
@[simp] theorem resetEvent_faultAddr : (resetEvent s).faultAddr = 0 := rfl
@[simp] theorem resetEvent_mem : (resetEvent s).mem = s.mem := rfl
@[simp] theorem resetEvent_fb : (resetEvent s).fb = s.fb := rfl
@[simp] theorem resetEvent_keys : (resetEvent s).keys = s.keys := rfl
@[simp] theorem resetEvent_randIn : (resetEvent s).randIn = s.randIn := rfl
@[simp] theorem resetEvent_randDraws : (resetEvent s).randDraws = s.randDraws := rfl
@[simp] theorem resetEvent_requests : (resetEvent s).requests = s.requests := rfl
@[simp] theorem resetEvent_schedule : (resetEvent s).schedule = s.schedule := rfl

/-! ### tickEvent -/

@[simp] theorem tickEvent_v : (tickEvent s).v = s.v := rfl
@[simp] theorem tickEvent_i : (tickEvent s).i = s.i := rfl
@[simp] theorem tickEvent_pc : (tickEvent s).pc = s.pc := rfl
@[simp] theorem tickEvent_stack : (tickEvent s).stack = s.stack := rfl
@[simp] theorem tickEvent_sp : (tickEvent s).sp = s.sp := rfl
@[simp] theorem tickEvent_dt : (tickEvent s).dt = countDown s.dt := rfl
@[simp] theorem tickEvent_st : (tickEvent s).st = countDown s.st := rfl
@[simp] theorem tickEvent_faultCode : (tickEvent s).faultCode = s.faultCode := rfl
@[simp] theorem tickEvent_faultPc : (tickEvent s).faultPc = s.faultPc := rfl
@[simp] theorem tickEvent_faultAddr : (tickEvent s).faultAddr = s.faultAddr := rfl
@[simp] theorem tickEvent_mem : (tickEvent s).mem = s.mem := rfl
@[simp] theorem tickEvent_fb : (tickEvent s).fb = s.fb := rfl
@[simp] theorem tickEvent_keys : (tickEvent s).keys = s.keys := rfl
@[simp] theorem tickEvent_randIn : (tickEvent s).randIn = s.randIn := rfl
@[simp] theorem tickEvent_randDraws : (tickEvent s).randDraws = s.randDraws := rfl
@[simp] theorem tickEvent_requests : (tickEvent s).requests = s.requests := rfl
@[simp] theorem tickEvent_schedule : (tickEvent s).schedule = s.schedule := rfl

/-- A skip changes PC alone. -/
theorem State.skipIf_eq (c : Bool) : s.skipIf c = { s with pc := if c then s.pc + 4 else s.pc + 2 } := by
  cases c
  · rfl
  · simp only [State.skipIf, State.advance, if_true, BitVec.add_assoc]
    rfl

/-! ### The accessors -/

@[simp] theorem State.advance_reg (r : Reg) : s.advance.reg r = s.reg r := rfl
@[simp] theorem State.advance_slot (k : Slot) : s.advance.slot k = s.slot k := rfl
@[simp] theorem State.advance_pixel (x y : Nat) : s.advance.pixel x y = s.pixel x y := rfl
@[simp] theorem State.advance_memRead (a : Nat) : s.advance.memRead a = s.memRead a := rfl
@[simp] theorem State.setReg_slot (r : Reg) (b : Byte) (k : Slot) : (s.setReg r b).slot k = s.slot k := rfl
@[simp] theorem State.setReg_pixel (r : Reg) (b : Byte) (x y : Nat) : (s.setReg r b).pixel x y = s.pixel x y := rfl
@[simp] theorem State.setReg_memRead (r : Reg) (b : Byte) (a : Nat) : (s.setReg r b).memRead a = s.memRead a := rfl

/-- Read after write of a register, and every other register untouched. -/
theorem State.setReg_reg (x r : Reg) (b : Byte) : (s.setReg x b).reg r = if r = x then b else s.reg r := by
  simp only [State.setReg, State.reg, Fin.getElem_fin, Vector.getElem_set, Fin.val_inj, eq_comm (a := x)]

/-- What the registers hold after the two writes of a flag-setting instruction: the result wins in VF. -/
theorem State.setFlagged_reg (x r : Reg) (f b : Byte) :
    (s.setFlagged x f b).reg r = if r = x then b else if r = vF then f else s.reg r := by
  simp only [State.setFlagged, State.setReg_reg]

/-- Read after write of a stack slot, and every other slot untouched. -/
theorem State.setSlot_slot (k j : Slot) (w : Word) : (s.setSlot k w).slot j = if j = k then w else s.slot j := by
  simp only [State.setSlot, State.slot, Fin.getElem_fin, Vector.getElem_set, Fin.val_inj, eq_comm (a := k)]

/-- What the registers hold after a load of V0 to VX. -/
theorem State.loadRegs_reg (x r : Reg) (f : Nat → Byte) :
    (s.loadRegs x f).reg r = if r ≤ x then f r else s.reg r := by
  simp [State.loadRegs, State.reg]

/-- What the registers hold after a draw. -/
theorem State.drawSprite_reg (a b : Byte) (bs : List Byte) (r : Reg) :
    (s.drawSprite a b bs).reg r =
      if r = vF then flagByte (blitRows (a.toNat % 64) (b.toNat % 32) bs s.fb).2 else s.reg r := by
  simp only [State.drawSprite, State.setReg_reg]
  rfl

end Sys2Proof.Machine
end

