-- ==== Sys2Proof/Laws/Display.lean ====
section
/-! SUPPORT. The blit datapath pixel by pixel: the closed forms of `spriteMask`, `blitRow` and `blitRows`
(spec/20_memory.md R58, spec/43_memory_display_timer.md R165). -/

namespace Sys2Proof.Machine

/-- Column px of the mask is bit 7 - (px - x) of the sprite byte, inside the grid and inside the sprite. -/
theorem spriteMask_getLsbD (x px : Nat) (b : Byte) :
    (spriteMask x b).getLsbD px = (decide (px < 64) && decide (x ≤ px) && b.getMsbD (px - x)) := by
  simp [spriteMask, BitVec.getLsbD_shiftLeft, BitVec.getLsbD_reverse]
  grind

/-- Bit 7 - c of a byte, as R58 writes it. -/
theorem getMsbD_byte (b : Byte) (c : Nat) : b.getMsbD c = (decide (c < 8) && b.getLsbD (7 - c)) := by
  simp [BitVec.getMsbD]

/-- Two rows share a set pixel exactly when their AND is not zero. -/
theorem and_ne_zero_iff (a b : PixelRow) : (a &&& b) ≠ 0 ↔ ∃ k, a.getLsbD k = true ∧ b.getLsbD k = true := by
  constructor
  · intro h
    by_contra hn
    apply h
    apply BitVec.eq_of_getLsbD_eq
    intro k _
    have := not_exists.mp hn k
    rw [BitVec.getLsbD_and, show (0 : PixelRow).getLsbD k = false from BitVec.getLsbD_zero]
    cases ha : a.getLsbD k <;> cases hb : b.getLsbD k <;> simp only [ha, hb, and_self, not_true] at this <;> rfl
  · rintro ⟨k, ha, hb⟩ h0
    have := congrArg (fun r => BitVec.getLsbD r k) h0
    simp [ha, hb] at this

/-- The pixels of a grid with one row replaced. -/
theorem Display.pixel_set (fb : Display) (y x py : Nat) (row : PixelRow) (h : y < 32) :
    Display.pixel (fb.set y row) x py = if py = y then row.getLsbD x else Display.pixel fb x py := by
  simp only [Display.pixel, Vector.getElem_set]
  grind

/-- A clear grid has no set pixel (R57). -/
theorem clearDisplay_pixel (x y : Nat) : Display.pixel clearDisplay x y = false := by
  simp [Display.pixel, clearDisplay]

/-- Every pixel after a blit: the pixels the sprite covers are XORed with its bits, the others are as they were. -/
theorem blitRows_pixel (x px py : Nat) (hpx : px < 64) (hpy : py < 32) (rows : List Byte) (y : Nat) (fb : Display) :
    Display.pixel (blitRows x y rows fb).1 px py =
      (Display.pixel fb px py ^^
        (decide (y ≤ py) && decide (x ≤ px) && (rows.getD (py - y) 0).getMsbD (px - x))) := by
  induction rows generalizing y fb with
  | nil => simp [blitRows]
  | cons b bs ih =>
    rw [blitRows]
    split
    · rename_i h
      simp only [ih, Display.pixel_set fb y px py _ h, blitRow]
      by_cases e : py = y
      · subst e
        have hm : (spriteMask x b)[px] = (decide (x ≤ px) && b.getMsbD (px - x)) := by
          rw [← BitVec.getLsbD_eq_getElem, spriteMask_getLsbD]; simp [hpx]
        simp [hm, hpx, Display.pixel, h]
      · by_cases hlt : y ≤ py
        · have e1 : py - y = (py - (y + 1)) + 1 := by omega
          have e2 : y + 1 ≤ py := by omega
          rw [e1]; simp [e, hlt, e2]
        · have e2 : ¬ y + 1 ≤ py := by omega
          simp [e, hlt, e2]
    · have : ¬ y ≤ py := by omega
      simp [this]

/-- The collision of a blit: some pixel inside the grid was set and its sprite bit is 1. -/
theorem blitRows_collision (x : Nat) (rows : List Byte) (y : Nat) (fb : Display) :
    (blitRows x y rows fb).2 = true ↔
      ∃ r c, r < rows.length ∧ c < 8 ∧ x + c < 64 ∧ y + r < 32 ∧
        (rows.getD r 0).getLsbD (7 - c) = true ∧ Display.pixel fb (x + c) (y + r) = true := by
  induction rows generalizing y fb with
  | nil => simp [blitRows]
  | cons b bs ih =>
    rw [blitRows]
    split
    · rename_i h
      simp only [Bool.or_eq_true, ih, blitRow, decide_eq_true_eq, and_ne_zero_iff, spriteMask_getLsbD, getMsbD_byte,
        Bool.and_eq_true]
      constructor
      · rintro (⟨k, ha, ⟨hk, hx⟩, hc, hb⟩ | ⟨r, c, hr, hc, hxc, hy, hb, hp⟩)
        · refine ⟨0, k - x, by simp, hc, by omega, by omega, by simpa using hb, ?_⟩
          have e : x + (k - x) = k := by omega
          simpa [Display.pixel, h, e] using ha
        · refine ⟨r + 1, c, by simpa using hr, hc, hxc, by omega, by simpa using hb, ?_⟩
          have e : y + (r + 1) = y + 1 + r := by omega
          rw [Display.pixel_set fb y _ _ _ h, if_neg (by omega)] at hp
          rw [e]; exact hp
      · rintro ⟨r, c, hr, hc, hxc, hy, hb, hp⟩
        cases r with
        | zero =>
          have e : x + c - x = c := by omega
          refine .inl ⟨x + c, by simpa [Display.pixel, h] using hp, ⟨hxc, by omega⟩, by omega, ?_⟩
          rw [e]; simpa using hb
        | succ r =>
          have e : y + (r + 1) = y + 1 + r := by omega
          refine .inr ⟨r, c, by simpa using hr, hc, hxc, by omega, by simpa using hb, ?_⟩
          rw [Display.pixel_set fb y _ _ _ h, if_neg (by omega), ← e]; exact hp
    · constructor
      · intro h; simp at h
      · rintro ⟨r, c, -, -, -, hy, -, -⟩; omega

/-- The grid of a state after a draw. -/
theorem State.drawSprite_pixel (s : State) (a b : Byte) (bs : List Byte) (px py : Nat) :
    (s.drawSprite a b bs).pixel px py =
      Display.pixel (blitRows (a.toNat % 64) (b.toNat % 32) bs s.fb).1 px py := rfl

end Sys2Proof.Machine
end

