-- ==== Sys2Proof/Laws/Encoding.lean ====
section
/-! SUPPORT. The fields of a word laid out in each format, and a word put together again from its fields
(spec/30_encoding.md R81, R82). -/

namespace Sys2Proof

@[simp] theorem regBits_toFin (n : Nibble) : regBits n.toFin = n := rfl

section addr
variable (t : Nibble) (nnn : Addr12) (w : Word)

@[simp] theorem fieldT_addrWord : fieldT (addrWord t nnn) = t := by
  simp only [fieldT, addrWord]; ext i hi; simp; grind

@[simp] theorem fieldNNN_addrWord : fieldNNN (addrWord t nnn) = nnn := by
  simp only [fieldNNN, addrWord]; ext i hi; simp; grind

@[simp] theorem addrWord_fields : addrWord (fieldT w) (fieldNNN w) = w := by
  simp only [addrWord, fieldT, fieldNNN]; ext i hi
  simp only [BitVec.getElem_append]; split_ifs <;> simp <;> grind
end addr

section regImm
variable (t : Nibble) (x : Reg) (nn : Byte) (w : Word)

@[simp] theorem fieldT_regImmWord : fieldT (regImmWord t x nn) = t := by
  simp only [fieldT, regImmWord]; ext i hi; simp; grind

@[simp] theorem fieldX_regImmWord : fieldX (regImmWord t x nn) = x := by
  have : (regImmWord t x nn).extractLsb' 8 4 = regBits x := by
    simp only [regImmWord]; ext i hi; simp; grind
  rw [fieldX, this]; rfl

@[simp] theorem fieldNN_regImmWord : fieldNN (regImmWord t x nn) = nn := by
  simp only [fieldNN, regImmWord]; ext i hi; simp; grind

@[simp] theorem regImmWord_fields : regImmWord (fieldT w) (fieldX w) (fieldNN w) = w := by
  simp only [regImmWord, fieldT, fieldX, fieldNN, regBits_toFin]; ext i hi
  simp only [BitVec.getElem_append]; split_ifs <;> simp <;> grind
end regImm

section regReg
variable (t : Nibble) (x y : Reg) (n : Nibble) (w : Word)

@[simp] theorem fieldT_regRegWord : fieldT (regRegWord t x y n) = t := by
  simp only [fieldT, regRegWord]; ext i hi; simp; grind

@[simp] theorem fieldX_regRegWord : fieldX (regRegWord t x y n) = x := by
  have : (regRegWord t x y n).extractLsb' 8 4 = regBits x := by
    simp only [regRegWord]; ext i hi; simp; grind
  rw [fieldX, this]; rfl

@[simp] theorem fieldY_regRegWord : fieldY (regRegWord t x y n) = y := by
  have : (regRegWord t x y n).extractLsb' 4 4 = regBits y := by
    simp only [regRegWord]; ext i hi; simp; grind
  rw [fieldY, this]; rfl

@[simp] theorem fieldN_regRegWord : fieldN (regRegWord t x y n) = n := by
  simp only [fieldN, regRegWord]; ext i hi; simp; grind

@[simp] theorem regRegWord_fields : regRegWord (fieldT w) (fieldX w) (fieldY w) (fieldN w) = w := by
  simp only [regRegWord, fieldT, fieldX, fieldY, fieldN, regBits_toFin]; ext i hi
  simp only [BitVec.getElem_append]; split_ifs <;> simp <;> grind
end regReg

/-- The two bytes of a word, high byte first, make the word again (R64). -/
@[simp] theorem wordBytes_append (w : Word) : w.extractLsb' 8 8 ++ w.extractLsb' 0 8 = w := by
  ext i hi
  simp only [BitVec.getElem_append]; split_ifs <;> simp <;> grind

end Sys2Proof
end

