-- ==== Sys2Proof/Laws/Memory.lean ====
section
/-! SUPPORT. Memory: read after write, the canonical form, and the range check. -/

namespace Sys2Proof.Machine

/-- Read after write of one byte, and every other address untouched. -/
theorem Memory.find_put (m : Memory) (a b : Nat) (c : Byte) :
    Memory.find (Memory.put m a c) b = if b = a then some c else Memory.find m b := by
  induction m with
  | nil => simp [Memory.put, Memory.find, eq_comm]
  | cons e m ih =>
    obtain ⟨k, d⟩ := e
    simp only [Memory.put]
    split_ifs <;> simp_all [Memory.find] <;> grind

/-- Writing keeps the addresses rising. -/
theorem Memory.put_rising (m : Memory) (a lo : Nat) (c : Byte) (hlo : lo ≤ a) (h : Memory.risingFrom lo m = true) :
    Memory.risingFrom lo (Memory.put m a c) = true := by
  induction m generalizing lo with
  | nil => simpa [Memory.put, Memory.risingFrom] using hlo
  | cons e m ih =>
    obtain ⟨k, d⟩ := e
    simp only [Memory.risingFrom, Bool.and_eq_true, decide_eq_true_eq] at h
    simp only [Memory.put]
    split_ifs with h1 h2
    · simp [Memory.risingFrom, hlo, h.2]; omega
    · subst h2; simp [Memory.risingFrom, hlo, h.2]
    · simp only [Memory.risingFrom, Bool.and_eq_true, decide_eq_true_eq]
      exact ⟨h.1, ih (k + 1) (by omega) h.2⟩

/-- Writing inside memory keeps every listed address inside memory. -/
theorem Memory.put_inside (m : Memory) (a : Nat) (c : Byte) (ha : a < Config.memSize)
    (h : (m.all fun e => decide (e.1 < Config.memSize)) = true) :
    ((Memory.put m a c).all fun e => decide (e.1 < Config.memSize)) = true := by
  induction m with
  | nil => simp [Memory.put, ha]
  | cons e m ih =>
    obtain ⟨k, d⟩ := e
    simp only [List.all_cons, Bool.and_eq_true, decide_eq_true_eq] at h
    simp only [Memory.put]
    split_ifs <;> simp [h.1, h.2, ha, ih h.2]

/-- A write inside memory keeps the canonical form. -/
theorem Memory.put_wf (m : Memory) (a : Nat) (c : Byte) (ha : a < Config.memSize) (h : Memory.wf m = true) :
    Memory.wf (Memory.put m a c) = true := by
  simp only [Memory.wf, Bool.and_eq_true] at h ⊢
  exact ⟨Memory.put_rising m a 0 c (Nat.zero_le a) h.1, Memory.put_inside m a c ha h.2⟩

/-- Writes inside memory keep the canonical form. -/
theorem Memory.putList_wf (m : Memory) (a : Nat) (bs : List Byte) (ha : a + bs.length ≤ Config.memSize)
    (h : Memory.wf m = true) : Memory.wf (Memory.putList m a bs) = true := by
  induction bs generalizing m a with
  | nil => exact h
  | cons b bs ih =>
    simp only [List.length_cons] at ha
    exact ih (Memory.put m a b) (a + 1) (by omega) (Memory.put_wf m a b (by omega) h)

/-- What an address holds after consecutive writes: the written byte inside them, else what it held. -/
theorem Memory.find_putList (m : Memory) (a b : Nat) (bs : List Byte) :
    Memory.find (Memory.putList m a bs) b =
      if a ≤ b ∧ b < a + bs.length then bs[b - a]? else Memory.find m b := by
  induction bs generalizing m a with
  | nil => simp [Memory.putList]
  | cons c bs ih =>
    rw [Memory.putList, ih, Memory.find_put]
    simp only [List.length_cons]
    by_cases hb : b = a
    · subst hb; simp
    · by_cases h1 : a + 1 ≤ b ∧ b < a + 1 + bs.length
      · have e : b - a = (b - (a + 1)) + 1 := by omega
        rw [if_pos h1, if_pos (by omega), e, List.getElem?_cons_succ]
      · rw [if_neg h1, if_neg hb, if_neg (by omega)]

/-- One byte of memory after consecutive stores at I. -/
theorem State.storeAtI_memRead (s : State) (bs : List Byte) (a : Nat) :
    (s.storeAtI bs).memRead a =
      if s.ea 0 ≤ a ∧ a < s.ea 0 + bs.length ∧ a < Config.memSize then bs[a - s.ea 0]? else s.memRead a := by
  simp only [State.memRead, State.storeAtI_mem, Memory.byteAt, Memory.find_putList]
  by_cases h1 : s.ea 0 ≤ a ∧ a < s.ea 0 + bs.length
  · by_cases h2 : a < Config.memSize
    · rw [if_pos h2, if_pos h1, if_pos ⟨h1.1, h1.2, h2⟩, List.getElem?_eq_getElem (by omega), Option.getD_some]
    · rw [if_neg h2, if_neg (by omega), if_neg h2]
  · have h2 : ¬(s.ea 0 ≤ a ∧ a < s.ea 0 + bs.length ∧ a < Config.memSize) := fun h2 => h1 ⟨h2.1, h2.2.1⟩
    rw [if_neg h1, if_neg h2]

/-- Lists in canonical form that hold the same byte at every address are the same list. -/
theorem Memory.eq_of_find (m n : Memory) (lo : Nat) (hm : Memory.risingFrom lo m = true)
    (hn : Memory.risingFrom lo n = true) (h : ∀ a, Memory.find m a = Memory.find n a) : m = n := by
  have none_below : ∀ (m : Memory) (lo a : Nat), Memory.risingFrom lo m = true → a < lo → Memory.find m a = none := by
    intro m
    induction m with
    | nil => intros; rfl
    | cons e m ih =>
      intro lo a hr ha
      obtain ⟨k, d⟩ := e
      simp only [Memory.risingFrom, Bool.and_eq_true, decide_eq_true_eq] at hr
      rw [Memory.find, if_neg (by omega)]
      exact ih (k + 1) a hr.2 (by omega)
  induction m generalizing n lo with
  | nil =>
    cases n with
    | nil => rfl
    | cons e n => have := h e.1; simp [Memory.find] at this
  | cons e m ih =>
    obtain ⟨k, c⟩ := e
    cases n with
    | nil => have := h k; simp [Memory.find] at this
    | cons e' n =>
      obtain ⟨k', c'⟩ := e'
      simp only [Memory.risingFrom, Bool.and_eq_true, decide_eq_true_eq] at hm hn
      have hk : k = k' := by
        by_contra hne
        rcases Nat.lt_or_gt_of_ne hne with hlt | hgt
        · have := h k
          simp [Memory.find, Ne.symm hne, none_below n (k' + 1) k hn.2 (by omega)] at this
        · have := h k'
          simp [Memory.find, hne, none_below m (k + 1) k' hm.2 (by omega)] at this
      subst hk
      have hc : c = c' := by simpa [Memory.find] using h k
      subst hc
      have : m = n := by
        refine ih n (k + 1) hm.2 hn.2 fun a => ?_
        by_cases ha : a = k
        · rw [none_below m (k + 1) a hm.2 (by omega), none_below n (k + 1) a hn.2 (by omega)]
        · simpa [Memory.find, Ne.symm ha] using h a
      rw [this]

/-- The lowest address outside memory of n addresses from a upward, in closed form (R189). -/
theorem lowestOutside_eq (a n : Nat) :
    lowestOutside a n = if n = 0 ∨ a + n ≤ Config.memSize then none else some (max a Config.memSize) := by
  induction n generalizing a with
  | zero => simp [lowestOutside]
  | succ n ih => simp only [lowestOutside, ih]; grind

/-- Everything a data access can do: the range decides, and an access outside memory is the fatal condition. -/
theorem accessAtI_eq (n : Nat) (s done : State) :
    accessAtI n s done =
      if n = 0 ∨ s.i.toNat + n ≤ Config.memSize then .next done
      else raise (.memRangeData (max s.i.toNat Config.memSize)) s := by
  simp only [accessAtI, lowestOutside_eq, State.ea, Nat.add_zero]
  split_ifs <;> rfl

/-- The bytes at I, ..., I + n - 1, in order. -/
theorem State.bytesAtI_get (s : State) (n k : Nat) (h : k < n) :
    (s.bytesAtI n)[k]? = some (Memory.byteAt s.mem (s.ea k)) := by
  simp [State.bytesAtI, h]

@[simp] theorem State.bytesAtI_length (s : State) (n : Nat) : (s.bytesAtI n).length = n := by
  simp [State.bytesAtI]

end Sys2Proof.Machine
end

