-- ==== Sys2Proof/Laws/Ops.lean ====
section
/-! SUPPORT. What each shared operation can do, said once: the provers cite these and unfold nothing. -/

namespace Sys2Proof.Machine

/-! ### Fatal conditions -/

/-- Taking a fatal condition writes the latch and nothing else. -/
theorem raise_eq (f : Fatal) (s : State) :
    raise f s = .next { s with faultCode := f.code, faultPc := s.pc, faultAddr := f.addr } := rfl

/-- The codes are 1 to 4 (R191). -/
theorem Fatal.code_range (f : Fatal) : f.code ≠ 0 ∧ f.code.toNat ≤ 4 := by
  cases f <;> simp [Fatal.code]

/-- A data access ends in its effect or in the fatal condition, and nothing between. -/
theorem accessAtI_next {n : Nat} {s done t : State} (h : accessAtI n s done = .next t) :
    (t = done ∧ (n = 0 ∨ s.i.toNat + n ≤ Config.memSize)) ∨
    (raise (.memRangeData (max s.i.toNat Config.memSize)) s = .next t ∧ n ≠ 0 ∧ Config.memSize < s.i.toNat + n) := by
  rw [accessAtI_eq] at h
  split_ifs at h with hn
  · exact .inl ⟨(Host.Outcome.next.inj h).symm, hn⟩
  · exact .inr ⟨h, fun h0 => hn (.inl h0), by omega⟩

/-! ### Fetch -/

/-- The fetch in closed form: both bytes are inside memory, or the lower address outside is reported. -/
theorem State.fetch_eq (s : State) :
    s.fetch =
      if s.pc.toNat + 1 < Config.memSize then
        .ok (Memory.byteAt s.mem s.pc.toNat ++ Memory.byteAt s.mem (s.pc.toNat + 1))
      else .error (max s.pc.toNat Config.memSize) := by
  simp only [State.fetch, State.memRead]
  by_cases h1 : s.pc.toNat + 1 < Config.memSize
  · have h2 : s.pc.toNat < Config.memSize := by omega
    simp only [if_pos h1, if_pos h2]
  · by_cases h2 : s.pc.toNat < Config.memSize
    · have h3 : max s.pc.toNat Config.memSize = s.pc.toNat + 1 := by omega
      simp only [if_neg h1, if_pos h2, h3]
    · have h3 : max s.pc.toNat Config.memSize = s.pc.toNat := by omega
      simp only [if_neg h1, if_neg h2, h3]

/-- A fetch that succeeds: PC + 1 is inside memory. -/
theorem State.fetch_ok {s : State} {w : Word} (h : s.fetch = .ok w) :
    s.pc.toNat + 1 < Config.memSize ∧
      w = Memory.byteAt s.mem s.pc.toNat ++ Memory.byteAt s.mem (s.pc.toNat + 1) := by
  rw [State.fetch_eq] at h
  split_ifs at h with h1
  exact ⟨h1, (Except.ok.inj h).symm⟩

/-- A fetch that fails: PC + 1 is outside memory and the lower address outside is reported. -/
theorem State.fetch_error {s : State} {a : Nat} (h : s.fetch = .error a) :
    Config.memSize ≤ s.pc.toNat + 1 ∧ a = max s.pc.toNat Config.memSize := by
  rw [State.fetch_eq] at h
  split_ifs at h with h1
  exact ⟨by omega, (Except.error.inj h).symm⟩

/-! ### Inputs -/

/-- The first key is a pressed key and no lower key is pressed (R61). -/
theorem State.firstKey_some {s : State} {k : Reg} (h : s.firstKey = some k) :
    s.keyPressed k = true ∧ ∀ j, j < k → s.keyPressed j = false := by
  rw [State.firstKey, List.find?_eq_some_iff_getElem] at h
  obtain ⟨hk, n, hn, he, hlt⟩ := h
  refine ⟨hk, fun j hj => ?_⟩
  have hnk : n = k.val := by simpa using congrArg Fin.val he
  have := hlt j.val (by rw [hnk]; exact hj)
  simpa using this

/-- There is no first key exactly when no key is pressed (R61). -/
theorem State.firstKey_none {s : State} : s.firstKey = none ↔ ∀ k, s.keyPressed k = false := by
  simp [State.firstKey, List.find?_eq_none]

/-! ### Events -/

/-- Everything the step event can do (R110). -/
theorem executeEvent_cases (s : State) :
    (s.faultCode ≠ 0 ∧ executeEvent s = .next s) ∨
    (s.faultCode = 0 ∧ ∃ a, s.fetch = .error a ∧ executeEvent s = raise (.memRangeFetch a) s) ∨
    (s.faultCode = 0 ∧ ∃ w, s.fetch = .ok w ∧ executeEvent s = exec (decodeWord w) s) := by
  by_cases h : s.faultCode ≠ 0
  · exact .inl ⟨h, by simp only [executeEvent, if_pos h]⟩
  · refine .inr ?_
    have h0 : s.faultCode = 0 := not_not.mp h
    cases hf : s.fetch with
    | error a => exact .inl ⟨h0, a, rfl, by simp only [executeEvent, if_neg h, hf]⟩
    | ok w => exact .inr ⟨h0, w, rfl, by simp only [executeEvent, if_neg h, hf]⟩

/-- A pending request is the next event. -/
theorem State.event_of_cons {s : State} {r : Request} {rest : List Request} (h : s.requests = r :: rest) :
    s.event = r ∧ s.taken = { s with requests := rest } := by
  simp only [State.event, State.taken, h, and_self]

/-- With no request pending and a schedule of steps the next event is a step. -/
theorem State.event_of_steps {s : State} (h : s.requests = []) (hs : s.schedule = .steps) :
    s.event = .execute ∧ s.taken = s := by
  simp only [State.event, State.taken, h, hs, and_self]

/-- With no request pending the free schedule gives its own next event. -/
theorem State.event_of_free {s : State} {n : Nat} (h : s.requests = []) (hs : s.schedule = .free n) :
    s.event = Config.freeEvent n ∧ s.taken = { s with schedule := .free (n + 1) } := by
  simp only [State.event, State.taken, h, hs, and_self]

/-- Taking an event changes the pending requests and the schedule, and nothing else. -/
theorem State.taken_eq (s : State) :
    s.taken = { s with requests := s.taken.requests, schedule := s.taken.schedule } := by
  rw [State.taken]
  cases s.requests with
  | cons r rest => rfl
  | nil => cases s.schedule <;> rfl

@[simp] theorem State.taken_v (s : State) : s.taken.v = s.v := by rw [State.taken_eq]
@[simp] theorem State.taken_i (s : State) : s.taken.i = s.i := by rw [State.taken_eq]
@[simp] theorem State.taken_pc (s : State) : s.taken.pc = s.pc := by rw [State.taken_eq]
@[simp] theorem State.taken_stack (s : State) : s.taken.stack = s.stack := by rw [State.taken_eq]
@[simp] theorem State.taken_sp (s : State) : s.taken.sp = s.sp := by rw [State.taken_eq]
@[simp] theorem State.taken_dt (s : State) : s.taken.dt = s.dt := by rw [State.taken_eq]
@[simp] theorem State.taken_st (s : State) : s.taken.st = s.st := by rw [State.taken_eq]
@[simp] theorem State.taken_faultCode (s : State) : s.taken.faultCode = s.faultCode := by rw [State.taken_eq]
@[simp] theorem State.taken_faultPc (s : State) : s.taken.faultPc = s.faultPc := by rw [State.taken_eq]
@[simp] theorem State.taken_faultAddr (s : State) : s.taken.faultAddr = s.faultAddr := by rw [State.taken_eq]
@[simp] theorem State.taken_mem (s : State) : s.taken.mem = s.mem := by rw [State.taken_eq]
@[simp] theorem State.taken_fb (s : State) : s.taken.fb = s.fb := by rw [State.taken_eq]
@[simp] theorem State.taken_keys (s : State) : s.taken.keys = s.keys := by rw [State.taken_eq]
@[simp] theorem State.taken_randIn (s : State) : s.taken.randIn = s.randIn := by rw [State.taken_eq]
@[simp] theorem State.taken_randDraws (s : State) : s.taken.randDraws = s.randDraws := by rw [State.taken_eq]
@[simp] theorem State.taken_reg (s : State) (r : Reg) : s.taken.reg r = s.reg r := by rw [State.taken_eq]; rfl
@[simp] theorem State.taken_slot (s : State) (k : Slot) : s.taken.slot k = s.slot k := by rw [State.taken_eq]; rfl
@[simp] theorem State.taken_memRead (s : State) (a : Nat) : s.taken.memRead a = s.memRead a := by rw [State.taken_eq]; rfl
@[simp] theorem State.taken_pixel (s : State) (x y : Nat) : s.taken.pixel x y = s.pixel x y := by rw [State.taken_eq]; rfl
@[simp] theorem State.taken_fetch (s : State) : s.taken.fetch = s.fetch := by rw [State.taken_eq]; rfl

/-- A transition serves the next event. -/
theorem step_eq (s : State) : step s = serve s.event s.taken := rfl

/-- A transition whose event is a step is the step event. -/
theorem step_of_execute {s : State} (h : s.event = .execute) : step s = executeEvent s.taken := by
  rw [step_eq, h]
  rfl

/-- With no request pending and a schedule of steps a transition is the step event. -/
theorem step_of_none {s : State} (h : s.requests = []) (hs : s.schedule = .steps) : step s = executeEvent s := by
  rw [step_of_execute (State.event_of_steps h hs).1, (State.event_of_steps h hs).2]

/-- With events pending a transition serves the oldest of them. -/
theorem step_of_cons {s : State} {r : Request} {rest : List Request} (h : s.requests = r :: rest) :
    step s = serve r { s with requests := rest } := by
  rw [step_eq, (State.event_of_cons h).1, (State.event_of_cons h).2]

/-! ### Inputs sampled once -/

/-- The random byte is the oldest one supplied, when there is one (R62). -/
theorem State.randByte_cons {s : State} {b : Byte} {rest : List Byte} (h : s.randIn = b :: rest) : s.randByte = b := by
  simp only [State.randByte, h]

/-- A key is down exactly when its bit of the key input is 1 (R60). -/
theorem State.keyPressed_lowDigit (s : State) (b : Byte) :
    s.keyPressed (lowDigit b) = s.keys.getLsbD (b.toNat % 16) := by
  simp [State.keyPressed, lowDigit]

/-! ### Memory stays canonical -/

/-- Stores at I inside memory keep the canonical form. -/
theorem State.storeAtI_wf (s : State) (bs : List Byte) (h : s.i.toNat + bs.length ≤ Config.memSize)
    (hm : Memory.wf s.mem = true) : Memory.wf (s.storeAtI bs).mem = true :=
  Memory.putList_wf s.mem (s.ea 0) bs (by simpa [State.ea] using h) hm

/-- Nothing is listed right after reset, which is canonical. -/
theorem Memory.wf_nil : Memory.wf [] = true := rfl

/-! ### Placing an instruction -/

/-- The address an instruction is placed at leaves room for both bytes. -/
theorem State.placeAt_lt (s : State) : s.placeAt.toNat + 1 < Config.memSize := by
  rw [State.placeAt]
  split_ifs with h
  · exact h
  · decide

/-- Placing an instruction keeps the canonical form. -/
theorem State.placeWord_wf (s : State) (w : Word) (hm : Memory.wf s.mem = true) :
    Memory.wf (s.placeWord w).mem = true :=
  Memory.putList_wf s.mem _ (wordBytes w) (show s.placeAt.toNat + 2 ≤ Config.memSize from s.placeAt_lt) hm

/-- A placed instruction is what the next fetch reads. -/
theorem State.placeWord_fetch (s : State) (w : Word) : (s.placeWord w).fetch = .ok w := by
  have hpc : (s.placeWord w).pc = s.placeAt := rfl
  have hmem : (s.placeWord w).mem = Memory.putList s.mem s.placeAt.toNat (wordBytes w) := rfl
  rw [State.fetch_eq, hpc, if_pos s.placeAt_lt, hmem]
  simp [Memory.byteAt, Memory.find_putList, wordBytes]

end Sys2Proof.Machine
end

