-- ==== Sys2Proof/Laws/PerInstr.lean ====
section
/-! SUPPORT. Per-instruction families. RowMatch: a well-formed instruction's word is selected by the instruction's
own row of the opcode map (spec/30_encoding.md R86); UNMAPPED has no row of its own there (R87). -/

namespace Sys2Proof.Laws

/-- AND of words in two fields. -/
theorem and_fields2 (t u : Nibble) (a b : Addr12) :
    ((t ++ a : Word) &&& (u ++ b : Word)) = ((t &&& u) ++ (a &&& b) : Word) := by
  ext i hi; simp; grind

/-- AND of words in three fields. -/
theorem and_fields3 (t u x y : Nibble) (a b : Byte) :
    ((t ++ x ++ a : Word) &&& (u ++ y ++ b : Word)) = ((t &&& u) ++ (x &&& y) ++ (a &&& b) : Word) := by
  ext i hi; simp; grind

/-- AND of words in four fields. -/
theorem and_fields4 (t u x y p q m n : Nibble) :
    ((t ++ x ++ p ++ m : Word) &&& (u ++ y ++ q ++ n : Word)) =
      ((t &&& u) ++ (x &&& y) ++ (p &&& q) ++ (m &&& n) : Word) := by
  ext i hi; simp; grind

/-- An ADDR word under the mask of its row is its pattern. -/
theorem addrWord_masked (t : Nibble) (nnn : Addr12) : addrWord t nnn &&& 0xF000 = addrWord t 0 := by
  have e := and_fields2 t 0xF nnn 0
  rwa [show t &&& 0xF = t from BitVec.and_allOnes, show nnn &&& 0 = 0 from BitVec.and_zero] at e

/-- A REGIMM word under the mask of its row is its pattern. -/
theorem regImmWord_masked (t : Nibble) (x : Reg) (nn : Byte) : regImmWord t x nn &&& 0xF000 = regImmWord t 0 0 := by
  have e := and_fields3 t 0xF (regBits x) 0 nn 0
  rwa [show t &&& 0xF = t from BitVec.and_allOnes, show regBits x &&& 0 = 0 from BitVec.and_zero,
    show nn &&& 0 = 0 from BitVec.and_zero] at e

/-- A REGFN word under the mask of its row is its pattern. -/
theorem regFnWord_masked (t : Nibble) (x : Reg) (nn : Byte) : regImmWord t x nn &&& 0xF0FF = regImmWord t 0 nn := by
  have e := and_fields3 t 0xF (regBits x) 0 nn 0xFF
  rwa [show t &&& 0xF = t from BitVec.and_allOnes, show regBits x &&& 0 = 0 from BitVec.and_zero,
    show nn &&& 0xFF = nn from BitVec.and_allOnes] at e

/-- A REGREG word under the mask of its row is its pattern. -/
theorem regRegWord_masked (t : Nibble) (x y : Reg) (n : Nibble) :
    regRegWord t x y n &&& 0xF00F = regRegWord t 0 0 n := by
  have e := and_fields4 t 0xF (regBits x) 0 (regBits y) 0 n 0xF
  rwa [show t &&& 0xF = t from BitVec.and_allOnes, show n &&& 0xF = n from BitVec.and_allOnes,
    show regBits x &&& 0 = 0 from BitVec.and_zero, show regBits y &&& 0 = 0 from BitVec.and_zero] at e

/-- A DRAW word under the mask of its row is its pattern. -/
theorem drawWord_masked (t : Nibble) (x y : Reg) (n : Nibble) :
    regRegWord t x y n &&& 0xF000 = regRegWord t 0 0 0 := by
  have e := and_fields4 t 0xF (regBits x) 0 (regBits y) 0 n 0
  rwa [show t &&& 0xF = t from BitVec.and_allOnes, show n &&& 0 = 0 from BitVec.and_zero,
    show regBits x &&& 0 = 0 from BitVec.and_zero, show regBits y &&& 0 = 0 from BitVec.and_zero] at e

/-- A word is selected by an ADDR, REGIMM or DRAW row exactly when its T is the row's (R86). -/
theorem selects_F000 (w : Word) (t : Nibble) : w &&& 0xF000 = addrWord t 0 ↔ fieldT w = t := by
  have e := addrWord_masked (fieldT w) (fieldNNN w)
  rw [addrWord_fields] at e
  constructor
  · intro h; simpa using congrArg fieldT (e.symm.trans h)
  · rintro rfl; exact e

/-- A word is selected by a REGREG row exactly when its T and N are the row's (R86). -/
theorem selects_F00F (w : Word) (t n : Nibble) :
    w &&& 0xF00F = regRegWord t 0 0 n ↔ fieldT w = t ∧ fieldN w = n := by
  have e := regRegWord_masked (fieldT w) (fieldX w) (fieldY w) (fieldN w)
  rw [regRegWord_fields] at e
  constructor
  · intro h
    have h' := e.symm.trans h
    exact ⟨by simpa using congrArg fieldT h', by simpa using congrArg fieldN h'⟩
  · rintro ⟨rfl, rfl⟩; exact e

/-- A word is selected by a REGFN row exactly when its T and NN are the row's (R86). -/
theorem selects_F0FF (w : Word) (t : Nibble) (nn : Byte) :
    w &&& 0xF0FF = regImmWord t 0 nn ↔ fieldT w = t ∧ fieldNN w = nn := by
  have e := regFnWord_masked (fieldT w) (fieldX w) (fieldNN w)
  rw [regImmWord_fields] at e
  constructor
  · intro h
    have h' := e.symm.trans h
    exact ⟨by simpa using congrArg fieldT h', by simpa using congrArg fieldNN h'⟩
  · rintro ⟨rfl, rfl⟩; exact e

/-- The row of the opcode map with a given number, if any. -/
def rowOf (n : Nat) : Option OpRow := opcodeRows.find? fun r => r.priority == n

namespace RowMatch

/-- The instruction's row, where it has one, selects the instruction's word. -/
def Statement (i : Instr) : Prop :=
  i.wf = true → ∀ r, rowOf i.priority = some r → encode i &&& r.mask = r.pattern

/-- The statement from the row's own mask and pattern. -/
theorem of_masked {i : Instr} {m p : Word} (hr : (rowOf i.priority).map (fun r => (r.mask, r.pattern)) = some (m, p))
    (h : encode i &&& m = p) : Statement i := by
  intro _ r hs
  rw [hs] at hr
  have e := Option.some.inj hr
  rw [(Prod.mk.inj e).1, (Prod.mk.inj e).2, h]

theorem op00E0 : Statement .op00E0 := of_masked (m := 0xFFFF) (p := 0x00E0) rfl rfl
theorem op00EE : Statement .op00EE := of_masked (m := 0xFFFF) (p := 0x00EE) rfl rfl
theorem op0NNN (nnn : Addr12) : Statement (.op0NNN nnn) :=
  of_masked (m := 0xF000) (p := 0x0000) rfl (addrWord_masked _ _)
theorem op1NNN (nnn : Addr12) : Statement (.op1NNN nnn) :=
  of_masked (m := 0xF000) (p := 0x1000) rfl (addrWord_masked _ _)
theorem op2NNN (nnn : Addr12) : Statement (.op2NNN nnn) :=
  of_masked (m := 0xF000) (p := 0x2000) rfl (addrWord_masked _ _)
theorem op3XNN (x : Reg) (nn : Byte) : Statement (.op3XNN x nn) :=
  of_masked (m := 0xF000) (p := 0x3000) rfl (regImmWord_masked _ _ _)
theorem op4XNN (x : Reg) (nn : Byte) : Statement (.op4XNN x nn) :=
  of_masked (m := 0xF000) (p := 0x4000) rfl (regImmWord_masked _ _ _)
theorem op5XY0 (x y : Reg) : Statement (.op5XY0 x y) :=
  of_masked (m := 0xF00F) (p := 0x5000) rfl (regRegWord_masked _ _ _ _)
theorem op6XNN (x : Reg) (nn : Byte) : Statement (.op6XNN x nn) :=
  of_masked (m := 0xF000) (p := 0x6000) rfl (regImmWord_masked _ _ _)
theorem op7XNN (x : Reg) (nn : Byte) : Statement (.op7XNN x nn) :=
  of_masked (m := 0xF000) (p := 0x7000) rfl (regImmWord_masked _ _ _)
theorem op8XY0 (x y : Reg) : Statement (.op8XY0 x y) :=
  of_masked (m := 0xF00F) (p := 0x8000) rfl (regRegWord_masked _ _ _ _)
theorem op8XY1 (x y : Reg) : Statement (.op8XY1 x y) :=
  of_masked (m := 0xF00F) (p := 0x8001) rfl (regRegWord_masked _ _ _ _)
theorem op8XY2 (x y : Reg) : Statement (.op8XY2 x y) :=
  of_masked (m := 0xF00F) (p := 0x8002) rfl (regRegWord_masked _ _ _ _)
theorem op8XY3 (x y : Reg) : Statement (.op8XY3 x y) :=
  of_masked (m := 0xF00F) (p := 0x8003) rfl (regRegWord_masked _ _ _ _)
theorem op8XY4 (x y : Reg) : Statement (.op8XY4 x y) :=
  of_masked (m := 0xF00F) (p := 0x8004) rfl (regRegWord_masked _ _ _ _)
theorem op8XY5 (x y : Reg) : Statement (.op8XY5 x y) :=
  of_masked (m := 0xF00F) (p := 0x8005) rfl (regRegWord_masked _ _ _ _)
theorem op8XY6 (x y : Reg) : Statement (.op8XY6 x y) :=
  of_masked (m := 0xF00F) (p := 0x8006) rfl (regRegWord_masked _ _ _ _)
theorem op8XY7 (x y : Reg) : Statement (.op8XY7 x y) :=
  of_masked (m := 0xF00F) (p := 0x8007) rfl (regRegWord_masked _ _ _ _)
theorem op8XYE (x y : Reg) : Statement (.op8XYE x y) :=
  of_masked (m := 0xF00F) (p := 0x800E) rfl (regRegWord_masked _ _ _ _)
theorem op9XY0 (x y : Reg) : Statement (.op9XY0 x y) :=
  of_masked (m := 0xF00F) (p := 0x9000) rfl (regRegWord_masked _ _ _ _)
theorem opANNN (nnn : Addr12) : Statement (.opANNN nnn) :=
  of_masked (m := 0xF000) (p := 0xA000) rfl (addrWord_masked _ _)
theorem opBNNN (nnn : Addr12) : Statement (.opBNNN nnn) :=
  of_masked (m := 0xF000) (p := 0xB000) rfl (addrWord_masked _ _)
theorem opCXNN (x : Reg) (nn : Byte) : Statement (.opCXNN x nn) :=
  of_masked (m := 0xF000) (p := 0xC000) rfl (regImmWord_masked _ _ _)
theorem opDXYN (x y : Reg) (n : Nibble) : Statement (.opDXYN x y n) :=
  of_masked (m := 0xF000) (p := 0xD000) rfl (drawWord_masked _ _ _ _)
theorem opEX9E (x : Reg) : Statement (.opEX9E x) :=
  of_masked (m := 0xF0FF) (p := 0xE09E) rfl (regFnWord_masked _ _ _)
theorem opEXA1 (x : Reg) : Statement (.opEXA1 x) :=
  of_masked (m := 0xF0FF) (p := 0xE0A1) rfl (regFnWord_masked _ _ _)
theorem opFX07 (x : Reg) : Statement (.opFX07 x) :=
  of_masked (m := 0xF0FF) (p := 0xF007) rfl (regFnWord_masked _ _ _)
theorem opFX0A (x : Reg) : Statement (.opFX0A x) :=
  of_masked (m := 0xF0FF) (p := 0xF00A) rfl (regFnWord_masked _ _ _)
theorem opFX15 (x : Reg) : Statement (.opFX15 x) :=
  of_masked (m := 0xF0FF) (p := 0xF015) rfl (regFnWord_masked _ _ _)
theorem opFX18 (x : Reg) : Statement (.opFX18 x) :=
  of_masked (m := 0xF0FF) (p := 0xF018) rfl (regFnWord_masked _ _ _)
theorem opFX1E (x : Reg) : Statement (.opFX1E x) :=
  of_masked (m := 0xF0FF) (p := 0xF01E) rfl (regFnWord_masked _ _ _)
theorem opFX29 (x : Reg) : Statement (.opFX29 x) :=
  of_masked (m := 0xF0FF) (p := 0xF029) rfl (regFnWord_masked _ _ _)
theorem opFX33 (x : Reg) : Statement (.opFX33 x) :=
  of_masked (m := 0xF0FF) (p := 0xF033) rfl (regFnWord_masked _ _ _)
theorem opFX55 (x : Reg) : Statement (.opFX55 x) :=
  of_masked (m := 0xF0FF) (p := 0xF055) rfl (regFnWord_masked _ _ _)
theorem opFX65 (x : Reg) : Statement (.opFX65 x) :=
  of_masked (m := 0xF0FF) (p := 0xF065) rfl (regFnWord_masked _ _ _)
theorem unmapped (w : Word) : Statement (.unmapped w) := by
  intro _ r h
  simp [rowOf, Instr.priority, opcodeRows, opcodeRowsLow, opcodeRowsHigh] at h

end RowMatch

end Sys2Proof.Laws
end

