-- ==== Sys2Proof/Tests/Slice0.lean ====
section
/-! SUPPORT. Small tests. Words are written out from the patterns of spec/30_encoding.md R86 and R98; expected results
come from spec/95_test_vectors.md (the vector's id stands in the comment) or from the rule named. Then one witness for
each statement that has hypotheses. -/

namespace Sys2Proof.Tests
open Sys2Proof Sys2Proof.Machine

/-! ### Well-formedness refuses -/

theorem test_wf_refuses_0NNN_00E0 : (Instr.op0NNN 0x0E0).wf = false := by decide
theorem test_wf_refuses_0NNN_00EE : (Instr.op0NNN 0x0EE).wf = false := by decide
theorem test_wf_refuses_unmapped_8AB4 : (Instr.unmapped 0x8AB4).wf = false := by decide
theorem test_wf_refuses_unmapped_0123 : (Instr.unmapped 0x0123).wf = false := by decide
theorem test_wf_accepts_0NNN_01E0 : (Instr.op0NNN 0x1E0).wf = true := by decide
theorem test_wf_accepts_unmapped_8AB9 : (Instr.unmapped 0x8AB9).wf = true := by decide

/-! ### Decoding: every constructor from a word written out by R98 -/

theorem test_decode_fixed_and_addr :
    decodeWord 0x00E0 = .op00E0 ∧ decodeWord 0x00EE = .op00EE ∧ decodeWord 0x0123 = .op0NNN 0x123 ∧
    decodeWord 0x12A0 = .op1NNN 0x2A0 ∧ decodeWord 0x2300 = .op2NNN 0x300 ∧ decodeWord 0xA2F0 = .opANNN 0x2F0 ∧
    decodeWord 0xB300 = .opBNNN 0x300 := by decide

theorem test_decode_regimm :
    decodeWord 0x3005 = .op3XNN 0 0x05 ∧ decodeWord 0x4006 = .op4XNN 0 0x06 ∧ decodeWord 0x632A = .op6XNN 3 0x2A ∧
    decodeWord 0x7102 = .op7XNN 1 0x02 ∧ decodeWord 0xC10F = .opCXNN 1 0x0F := by decide

theorem test_decode_regreg :
    decodeWord 0x5120 = .op5XY0 1 2 ∧ decodeWord 0x8120 = .op8XY0 1 2 ∧ decodeWord 0x8121 = .op8XY1 1 2 ∧
    decodeWord 0x8122 = .op8XY2 1 2 ∧ decodeWord 0x8123 = .op8XY3 1 2 ∧ decodeWord 0x8AB4 = .op8XY4 10 11 ∧
    decodeWord 0x8F15 = .op8XY5 15 1 ∧ decodeWord 0x8126 = .op8XY6 1 2 ∧ decodeWord 0x8127 = .op8XY7 1 2 ∧
    decodeWord 0x812E = .op8XYE 1 2 ∧ decodeWord 0x9120 = .op9XY0 1 2 := by decide

theorem test_decode_draw_and_regfn :
    decodeWord 0xD015 = .opDXYN 0 1 5 ∧ decodeWord 0xE39E = .opEX9E 3 ∧ decodeWord 0xE3A1 = .opEXA1 3 ∧
    decodeWord 0xF507 = .opFX07 5 ∧ decodeWord 0xF30A = .opFX0A 3 ∧ decodeWord 0xF515 = .opFX15 5 ∧
    decodeWord 0xF518 = .opFX18 5 ∧ decodeWord 0xF21E = .opFX1E 2 ∧ decodeWord 0xF429 = .opFX29 4 ∧
    decodeWord 0xF733 = .opFX33 7 ∧ decodeWord 0xF155 = .opFX55 1 ∧ decodeWord 0xF165 = .opFX65 1 := by decide

/-- F7, F8: the words that are 0NNN, and words of each unmapped space. -/
theorem test_decode_noops :
    decodeWord 0x0000 = .op0NNN 0 ∧ decodeWord 0x0FEE = .op0NNN 0xFEE ∧ decodeWord 0x5121 = .unmapped 0x5121 ∧
    decodeWord 0x9AB4 = .unmapped 0x9AB4 ∧ decodeWord 0x8ABF = .unmapped 0x8ABF ∧
    decodeWord 0xE19F = .unmapped 0xE19F ∧ decodeWord 0xF175 = .unmapped 0xF175 := by decide

/-- F1: high byte first. -/
theorem test_decode_bytes : decode [0x63, 0x2A, 0xFF] = .ok (.op6XNN 3 0x2A, [0xFF]) := by decide
theorem test_decode_bytes_short : decode [0x63] = .error .truncated := by decide

/-! ### One step from a small state -/

/-- The reset state with some registers set. -/
def regs (l : List (Reg × Byte)) : State := l.foldl (fun s p => s.setReg p.1 p.2) State.reset

/-- The state with some bytes of memory set. -/
def withMem (l : List Host.Cell) (s : State) : State := { s with mem := l.foldl (fun m c => Memory.put m c.1 c.2) s.mem }

/-- The state with some pixels (x, y) set. -/
def withPixels (l : List (Nat × Fin 32)) (s : State) : State :=
  { s with fb := l.foldl (fun fb p => fb.set p.2 (fb[p.2] ||| (1 <<< p.1))) s.fb }

/-- What a transition answers, as an Option. -/
def after (r : Result) : Option State :=
  match r with
  | .next t => some t
  | .fault _ => none
  | .refused _ => none

/-- Run one word placed where the next fetch is, and look at the state after. -/
def look {α : Type} (s : State) (w : Nat) (f : State → α) : Option α := (after (step (s.withFetchWord 16 w))).map f

/-- The fault latch. -/
def latchOf (s : State) : Nat × Nat × Nat := (s.faultCode.toNat, s.faultPc.toNat, s.faultAddr.toNat)

-- F7, F8
theorem test_0NNN : look (regs [(1, 1)]) 0x01E0 (fun t => (t.pc, t.reg 1, t.sp)) = some (0x202, 1, 0) := by decide
theorem test_unmapped : look (regs [(1, 1)]) 0x8AB9 (fun t => (t.pc, t.reg 10, t.faultCode)) = some (0x202, 0, 0) := by
  decide
-- C24
theorem test_00E0 : look (withPixels [(5, 3), (63, 31)] (regs [(15, 1)])) 0x00E0
    (fun t => (t.pixel 5 3, t.pixel 63 31, t.reg 15, t.pc)) = some (false, false, 1, 0x202) := by decide
-- C6, C5
theorem test_00EE : look { State.reset with sp := 15, stack := State.reset.stack.set 15 0x456, pc := 0x300 } 0x00EE
    (fun t => (t.pc, t.sp, t.slot 15)) = some (0x456, 14, 0x456) := by decide
theorem test_00EE_underflow : look State.reset 0x00EE (fun t => (latchOf t, t.pc, t.sp)) =
    some ((2, 0x200, 0), 0x200, 0) := by decide
-- C1, C2
theorem test_1NNN : look State.reset 0x12A0 State.pc = some 0x2A0 := by decide
-- E4a, C3, C4
theorem test_2NNN : look State.reset 0x2300 (fun t => (t.slot 1, t.slot 0, t.sp, t.pc)) =
    some (0x202, 0, 1, 0x300) := by decide
theorem test_2NNN_overflow : look { State.reset with sp := 15 } 0x2300 (fun t => (latchOf t, t.pc, t.sp, t.slot 0)) =
    some ((1, 0x200, 0), 0x200, 15, 0) := by decide
-- C8, C9
theorem test_BNNN : look (regs [(0, 0xFF)]) 0xBFFF State.pc = some 0x10FE := by decide
theorem test_BNNN_V0 : look (regs [(2, 0x55)]) 0xB2F0 State.pc = some 0x2F0 := by decide
-- E5a, E5b
theorem test_3XNN : look (regs [(0, 5)]) 0x3005 State.pc = some 0x204 := by decide
theorem test_3XNN_not : look (regs [(0, 5)]) 0x3006 State.pc = some 0x202 := by decide
-- C10, C11
theorem test_4XNN : look (regs [(0, 5)]) 0x4006 State.pc = some 0x204 := by decide
theorem test_4XNN_not : look (regs [(0, 5)]) 0x4005 State.pc = some 0x202 := by decide
-- C12, C13
theorem test_5XY0 : look (regs [(1, 7), (2, 7)]) 0x5120 State.pc = some 0x204 := by decide
theorem test_5XY0_not : look (regs [(1, 7), (2, 8)]) 0x5120 State.pc = some 0x202 := by decide
-- C15, C17
theorem test_9XY0 : look (regs [(1, 7), (2, 8)]) 0x9120 State.pc = some 0x204 := by decide
theorem test_9XY0_same : look (regs [(3, 9)]) 0x9330 State.pc = some 0x202 := by decide
-- C22, C19
theorem test_EX9E : look { regs [(3, 0x1A)] with keys := 0x0400 } 0xE39E State.pc = some 0x204 := by decide
theorem test_EX9E_not : look { regs [(3, 0x0A)] with keys := 0xFBFF } 0xE39E State.pc = some 0x202 := by decide
-- C20, C21
theorem test_EXA1 : look (regs [(3, 0x0A)]) 0xE3A1 State.pc = some 0x204 := by decide
theorem test_EXA1_not : look { regs [(3, 0x0A)] with keys := 0x0400 } 0xE3A1 State.pc = some 0x202 := by decide
-- E1a, F2 (odd PC)
theorem test_6XNN : look State.reset 0x632A (fun t => (t.reg 3, t.pc)) = some (0x2A, 0x202) := by decide
theorem test_6XNN_odd_pc : look { State.reset with pc := 0x201 } 0x6001 (fun t => (t.reg 0, t.pc)) =
    some (1, 0x203) := by decide
-- A2, A3
theorem test_7XNN : look (regs [(1, 0xFF), (15, 7)]) 0x7102 (fun t => (t.reg 1, t.reg 15)) = some (1, 7) := by decide
theorem test_7XNN_VF : look (regs [(15, 0xFF)]) 0x7F01 (fun t => t.reg 15) = some 0 := by decide
-- A4 to A7
theorem test_8XY0 : look (regs [(2, 0x5A)]) 0x8120 (fun t => (t.reg 1, t.reg 2)) = some (0x5A, 0x5A) := by decide
theorem test_8XY1 : look (regs [(1, 0xF0), (2, 0x0F), (15, 9)]) 0x8121 (fun t => (t.reg 1, t.reg 15)) =
    some (0xFF, 9) := by decide
theorem test_8XY2 : look (regs [(1, 0xF0), (2, 0x3C)]) 0x8122 (fun t => t.reg 1) = some 0x30 := by decide
theorem test_8XY3 : look (regs [(1, 0xF0), (2, 0x3C)]) 0x8123 (fun t => t.reg 1) = some 0xCC := by decide
-- A11, A12
theorem test_8XY4_Y_is_VF : look (regs [(1, 0xF0), (15, 0x20)]) 0x81F4 (fun t => (t.reg 1, t.reg 15)) =
    some (0x10, 1) := by decide
theorem test_8XY4_VF : look (regs [(15, 0x81)]) 0x8FF4 (fun t => t.reg 15) = some 2 := by decide
-- A14, A16
theorem test_8XY5 : look (regs [(1, 0x10), (2, 0x20)]) 0x8125 (fun t => (t.reg 1, t.reg 15)) = some (0xF0, 0) := by
  decide
theorem test_8XY5_VF : look (regs [(15, 5), (1, 7)]) 0x8F15 (fun t => t.reg 15) = some 0xFE := by decide
-- A21, A24
theorem test_8XY6 : look (regs [(1, 0x81), (2, 0x55)]) 0x8126 (fun t => (t.reg 1, t.reg 15)) = some (0x40, 1) := by
  decide
theorem test_8XY6_VF : look (regs [(15, 1)]) 0x8F06 (fun t => t.reg 15) = some 0 := by decide
-- A18, A20
theorem test_8XY7 : look (regs [(1, 0x10), (2, 0x20)]) 0x8127 (fun t => (t.reg 1, t.reg 15)) = some (0x10, 1) := by
  decide
theorem test_8XY7_VF : look (regs [(15, 1), (2, 1)]) 0x8F27 (fun t => t.reg 15) = some 0 := by decide
-- A25, A28
theorem test_8XYE : look (regs [(1, 0x81), (2, 0x55)]) 0x812E (fun t => (t.reg 1, t.reg 15)) = some (2, 1) := by decide
theorem test_8XYE_VF : look (regs [(15, 0x81)]) 0x8F0E (fun t => t.reg 15) = some 2 := by decide
-- A30
theorem test_ANNN : look { State.reset with i := 0xFFFF } 0xA2F0 State.i = some 0x02F0 := by decide
-- A31
theorem test_CXNN : look { regs [(1, 0xFF)] with randIn := [0xB7, 1] } 0xC10F (fun t => (t.reg 1, t.randIn, t.randDraws)) =
    some (7, [1], 1) := by decide
-- A35, A36
theorem test_FX1E : look { regs [(2, 2), (15, 1)] with i := 0xFFFF } 0xF21E (fun t => (t.i, t.reg 15)) = some (1, 1) := by
  decide
theorem test_FX1E_no_12_bit : look { regs [(2, 1)] with i := 0x0FFF } 0xF21E (fun t => (t.i, t.reg 15)) =
    some (0x1000, 0) := by decide
-- D1, D6
theorem test_DXYN_clip : look (withMem [(0x300, 0xFF), (0x301, 0xFF)] { regs [(0, 62), (1, 31)] with i := 0x300 }) 0xD012
    (fun t => (t.fb == State.reset.fb.set 31 (3 <<< 62), t.reg 15)) = some (true, 0) := by decide
theorem test_DXYN_collision : look (withPixels [(2, 0)] (withMem [(0x300, 0xA0)] { State.reset with i := 0x300 })) 0xD011
    (fun t => (t.fb == State.reset.fb.set 0 1, t.reg 15)) = some (true, 1) := by decide
-- M16
theorem test_FX29 : look (regs [(4, 0x1F)]) 0xF429 State.i = some (BitVec.ofNat 16 (Config.fontBase.val + 0x4B)) := by rfl
-- M4, M5
theorem test_FX33 : look { regs [(7, 234)] with i := 0xFFD } 0xF733
    (fun t => (t.memRead 0xFFD, t.memRead 0xFFE, t.memRead 0xFFF)) = some (some 2, some 3, some 4) := by decide
theorem test_FX33_outside : look { regs [(7, 234)] with i := 0xFFE } 0xF733 (fun t => (latchOf t, t.pc, t.mem.length)) =
    some ((4, 0x200, 4096), 0x200, 2) := by decide
-- M7, M9
theorem test_FX55 : look { regs [(0, 0x11), (1, 0x22), (2, 0x33)] with i := 0x400 } 0xF155
    (fun t => (t.memRead 0x400, t.memRead 0x401, Memory.find t.mem 0x402, t.i)) =
    some (some 0x11, some 0x22, none, 0x400) := by decide
theorem test_FX55_outside : look { regs [(0, 0x11), (1, 0x22)] with i := 0xFFF } 0xF155
    (fun t => (latchOf t, Memory.find t.mem 0xFFF)) = some ((4, 0x200, 4096), none) := by decide
-- M11, M13
theorem test_FX65 : look (withMem [(0x400, 0xAA), (0x401, 0xBB), (0x402, 0xCC)] { regs [(2, 9)] with i := 0x400 }) 0xF165
    (fun t => (t.reg 0, t.reg 1, t.reg 2, t.i)) = some (0xAA, 0xBB, 9, 0x400) := by decide
theorem test_FX65_outside : look (withMem [(0xFFF, 0x77)] { State.reset with i := 0xFFF }) 0xF165
    (fun t => (latchOf t, t.reg 0)) = some ((4, 0x200, 4096), 0) := by decide
-- M18 to M20
theorem test_FX07 : look { State.reset with dt := 60 } 0xF507 (fun t => (t.reg 5, t.dt)) = some (0x3C, 60) := by decide
theorem test_FX15 : look (regs [(5, 0x3C)]) 0xF515 (fun t => (t.dt, t.st)) = some (60, 0) := by decide
theorem test_FX18 : look (regs [(5, 2)]) 0xF518 (fun t => (t.st, t.dt, t.soundOn, t.stOut)) = some (2, 0, true, 2) := by decide
-- M21, E10a
theorem test_FX0A : look { State.reset with keys := 0x8084 } 0xF30A (fun t => (t.reg 3, t.pc)) = some (2, 0x202) := by
  decide
theorem test_FX0A_no_key : after (step (State.reset.withFetchWord 16 0xF30A)) = some (State.reset.withFetchWord 16 0xF30A) := by
  decide

/-! ### Events -/

-- F4, F5, F6
theorem test_fetch_at_4095 : (after (step { State.reset with pc := 0xFFF })).map latchOf = some (3, 0xFFF, 4096) := by decide
theorem test_fetch_at_4096 : (after (step { State.reset with pc := 0x1000 })).map latchOf = some (3, 0x1000, 4096) := by
  decide
theorem test_halted : after (step { State.reset with faultCode := 2, faultPc := 0x200 }) =
    some { State.reset with faultCode := 2, faultPc := 0x200 } := by decide
-- M23
theorem test_tick : (after (step { State.reset with dt := 2, st := 0, requests := [.tick] })).map
    (fun t => (t.dt, t.st, t.requests)) = some (1, 0, []) := by decide
-- R215
theorem test_reset : after (step { regs [(3, 7)] with faultCode := 1, pc := 9, sp := 3, requests := [.reset] }) =
    some State.reset := by decide
-- R63
theorem test_keys : (after (step { State.reset with requests := [.keys 5, .tick] })).map
    (fun t => (t.keys, t.pc, t.requests)) = some (5, 0x200, [.tick]) := by decide

/-! ### Witnesses: each statement's hypotheses can be met, at the boundaries of its clauses -/

/-- A state with two bytes at PC: a step runs 0x632A. -/
def sample : State := State.reset.withFetchWord 16 0x632A

theorem witness_EncodeThenDecode : (Instr.op0NNN 0x0E1).wf = true ∧ (Instr.unmapped 0xFFFF).wf = true := by decide
theorem witness_DecodeTakesTwoBytesHighFirst : ([0x63] : List Byte).length < 2 := by decide
theorem witness_FetchIsTwoBytesHighFirst :
    sample.memRead sample.pc.toNat = some 0x63 ∧ sample.memRead (sample.pc.toNat + 1) = some 0x2A ∧
    4096 ≤ ({ sample with pc := 0x1000 } : State).pc.toNat ∧ ({ sample with pc := 0xFFF } : State).pc.toNat = 4095 ∧
    ({ sample with pc := 0xFFF } : State).faultCode = 0 ∧ ({ sample with pc := 0xFFF } : State).event = .execute := by
  decide
theorem witness_StepRunsDecodedInstruction :
    sample.faultCode = 0 ∧ sample.memRead sample.pc.toNat = some 0x63 ∧
    sample.memRead (sample.pc.toNat + 1) = some 0x2A ∧ decode [0x63, 0x2A] = .ok (.op6XNN 3 0x2A, []) ∧
    (Instr.op6XNN 3 0x2A).wf = true ∧ sample.event = .execute ∧ sample.requests = [] ∧ sample.schedule = .steps ∧
    ({ sample with requests := [.execute] } : State).requests = .execute :: [] := by decide
theorem witness_FetchOutsideMemoryIsFatal :
    ({ sample with pc := 0xFFF } : State).faultCode = 0 ∧ ({ sample with pc := 0xFFF } : State).event = .execute ∧
    ({ sample with pc := 0xFFF, requests := [.execute, .tick] } : State).event = .execute ∧
    4095 ≤ ({ sample with pc := 0xFFF } : State).pc.toNat ∧ 4095 ≤ ({ sample with pc := 0xFFFF } : State).pc.toNat := by
  decide
theorem witness_HaltedEngineDoesNothing :
    ({ sample with faultCode := 1 } : State).faultCode ≠ 0 ∧ ({ sample with faultCode := 1 } : State).requests = [] ∧
    ({ sample with faultCode := 1 } : State).schedule = .steps ∧
    ({ sample with faultCode := 1 } : State).event = .execute ∧
    ({ sample with faultCode := 1, requests := [.execute, .tick] } : State).requests = .execute :: [.tick] := by decide
theorem witness_OnlyResetLeavesTheHalt :
    (∃ t, step { sample with faultCode := 1, requests := [.reset] } = .next t) ∧
    (∃ t, step { sample with faultCode := 1, requests := [.tick] } = .next t) ∧
    ({ sample with faultCode := 1 } : State).faultCode ≠ 0 ∧ ({ sample with requests := [.reset] } : State).event = .reset ∧
    ({ sample with requests := [.tick] } : State).event ≠ .reset := ⟨⟨_, rfl⟩, ⟨_, rfl⟩, by decide, by decide, by decide⟩
/-- A fetch fault and a handler fault both meet the hypotheses. -/
theorem witness_FaultsAreTheClosedList :
    (∃ t, step { sample with pc := 0xFFF } = .next t ∧ t.faultCode ≠ 0) ∧
    (∃ t, step (State.reset.withFetchWord 16 0x00EE) = .next t ∧ t.faultCode ≠ 0) ∧
    sample.faultCode = 0 ∧ sample.event = .execute :=
  ⟨⟨_, rfl, by decide⟩, ⟨_, rfl, by decide⟩, by decide, by decide⟩
theorem witness_ListedConditionsDoFault :
    (∃ t, Frame.handlerFault (.op2NNN 0) { sample with sp := 15 } 1 ∧ exec (.op2NNN 0) { sample with sp := 15 } = .next t) ∧
    (∃ t, Frame.handlerFault .op00EE sample 2 ∧ exec .op00EE sample = .next t) ∧
    (∃ t, Frame.handlerFault (.opFX55 0) { sample with i := 0x1000 } 4 ∧
      exec (.opFX55 0) { sample with i := 0x1000 } = .next t) ∧
    (∃ t, 4095 ≤ ({ sample with pc := 0xFFF } : State).pc.toNat ∧ ({ sample with pc := 0xFFF } : State).event = .execute ∧
      ({ sample with pc := 0xFFF } : State).faultCode = 0 ∧ step { sample with pc := 0xFFF } = .next t) :=
  ⟨⟨_, .inl ⟨0, rfl, rfl, rfl⟩, rfl⟩, ⟨_, .inr (.inl ⟨rfl, rfl, rfl⟩), rfl⟩,
    ⟨_, .inr (.inr ⟨by decide, by decide, rfl⟩), rfl⟩, ⟨_, by decide, by decide, by decide, rfl⟩⟩
theorem witness_FaultsArePrecise :
    ∃ t, sample.faultCode = 0 ∧ sample.event = .execute ∧ step { sample with pc := 0x1000 } = .next t ∧ t.faultCode ≠ 0 :=
  ⟨_, by decide, by decide, rfl, by decide⟩
theorem witness_NoOp0NNNOnlyAdvancesPc : (0x0E1 : Addr12) ≠ 0x0E0 ∧ (0x0E1 : Addr12) ≠ 0x0EE := by decide
theorem witness_UnmappedOnlyAdvancesPc : ∀ r ∈ opcodeRows, (0x5121 : Word) &&& r.mask ≠ r.pattern := by decide
theorem witness_JumpGoesToLiteral : sample.pc.toNat = (0x200 : Addr12).toNat := by decide
theorem witness_CallPushesReturnAddress :
    sample.sp ≠ 15 ∧ ({ sample with sp := 14 } : State).sp ≠ 15 := by decide
theorem witness_ReturnPopsStack : ({ sample with sp := 1 } : State).sp ≠ 0 ∧ ({ sample with sp := 15 } : State).sp ≠ 0 := by
  decide
theorem witness_StackLimitsAreFatal : ({ sample with sp := 15 } : State).sp = 15 ∧ sample.sp = 0 := by decide
theorem witness_CallThenReturnResumes : ({ sample with sp := 14 } : State).sp ≠ 15 := by decide
theorem witness_SkipsComparingRegisters : (3 : Reg) = 3 := by decide
theorem witness_AddWritesCarryThenSum : (1 : Reg) ≠ vF := by decide
theorem witness_SubtractWritesNoBorrowThenDifference : (14 : Reg) ≠ vF := by decide
theorem witness_ShiftsWriteBitOutThenResult : (0 : Reg) ≠ vF := by decide
theorem witness_RandomIsByteAndLiteral :
    ({ sample with randIn := [0xB7, 1] } : State).randIn = 0xB7 :: [1] ∧ sample.randIn = [] := by decide
theorem witness_DrawXorsClippedSprite :
    ((0 : Nibble) = 0 ∨ ({ sample with i := 0xFFFF } : State).i.toNat + (0 : Nibble).toNat ≤ Config.memSize) ∧
    ((15 : Nibble) = 0 ∨ ({ sample with i := 0xFF1 } : State).i.toNat + (15 : Nibble).toNat ≤ Config.memSize) := by decide
/-- A two-row sprite at the bottom right corner of a clear grid, its bytes the last two of memory. -/
theorem witness_DrawingTwiceRestoresGrid :
    ((2 : Nibble) = 0 ∨ ({ sample with i := 0xFFE } : State).i.toNat + (2 : Nibble).toNat ≤ Config.memSize) ∧
    (∀ r c, Frame.onGrid 2 63 31 r c → ({ sample with i := 0xFFE } : State).pixel (63 + c) (31 + r) = false) := by
  refine ⟨by decide, fun r c h => ?_⟩
  obtain ⟨_, _, hc, hr⟩ := h
  obtain rfl : c = 0 := by simp only [Config.dispW] at hc; omega
  obtain rfl : r = 0 := by simp only [Config.dispH] at hr; omega
  decide
theorem witness_BcdStoresThreeDigits : ({ sample with i := 0xFFD } : State).i.toNat + 3 ≤ Config.memSize := by decide
theorem witness_StoreRegistersWritesV0ToVX :
    ({ sample with i := 0xFF0 } : State).i.toNat + (15 : Reg).val < Config.memSize := by decide
theorem witness_LoadRegistersReadsV0ToVX :
    ({ sample with i := 0xFFF } : State).i.toNat + (0 : Reg).val < Config.memSize := by decide
/-- The lowest I that faults, for each of the four instructions. -/
theorem witness_DataAccessOutsideMemoryIsFatal :
    (∀ i ∈ [Instr.opDXYN 0 1 1, .opFX55 0, .opFX65 0],
      Frame.dataBytes i ≠ 0 ∧ Config.memSize < ({ sample with i := 0x1000 } : State).i.toNat + Frame.dataBytes i) ∧
    Frame.dataBytes (.opFX33 0) ≠ 0 ∧
    Config.memSize < ({ sample with i := 0xFFE } : State).i.toNat + Frame.dataBytes (.opFX33 0) := by decide
theorem witness_DumpThenLoadRestoresRegisters :
    ({ sample with i := 0xFF0 } : State).i.toNat + (15 : Reg).val < Config.memSize ∧ (3 : Reg) ≤ 15 ∧ (14 : Reg) < 15 := by
  decide
/-- The last three bytes of memory, which a fetch at 0xFFE reads in part, and an FX55 over the next instruction. -/
theorem witness_StoresAreSeenByNextFetch :
    (∃ x, Instr.opFX33 7 = .opFX33 x ∨ Instr.opFX33 7 = .opFX55 x) ∧
    ({ sample with i := 0xFFD } : State).i.toNat + Frame.dataBytes (.opFX33 7) ≤ Config.memSize ∧
    (0xFFE : Word).toNat ≤ 4094 ∧ (∃ x, Instr.opFX55 1 = .opFX33 x ∨ Instr.opFX55 1 = .opFX55 x) ∧
    ({ sample with i := 0x202 } : State).i.toNat + Frame.dataBytes (.opFX55 1) ≤ Config.memSize :=
  ⟨⟨7, .inl rfl⟩, by decide, by decide, ⟨1, .inr rfl⟩, by decide⟩
theorem witness_KeyWaitTakesLowestKey :
    ({ sample with keys := 0x8084 } : State).keys.getLsbD (2 : Reg) = true ∧
    (∀ j : Reg, j < 2 → ({ sample with keys := 0x8084 } : State).keys.getLsbD j = false) := by decide
theorem witness_KeyWaitHoldsWithoutKey : sample.keys = 0 := by decide
theorem witness_TicksCountDownToZero :
    ({ sample with requests := [.tick] } : State).event = .tick := by decide
theorem witness_ResetReinitialisesTheEngine :
    ({ sample with faultCode := 3, requests := [.reset, .execute] } : State).event = .reset := by decide
theorem witness_KeyChangeSetsLevelsOnly :
    ({ sample with requests := [.keys 0xFFFF] } : State).event = .keys 0xFFFF := by decide
theorem witness_EveryTransitionKeepsInvariant : sample.Inv ∧ ∃ t, step sample = .next t :=
  ⟨⟨by decide, by decide, by decide, by decide, by decide, by decide, by decide, by decide, by decide⟩, _, rfl⟩
theorem witness_OnlyDestinationRegistersChange : ∃ t, exec (.op8XY4 1 2) sample = .next t := ⟨_, rfl⟩
theorem witness_PcAfterEachInstruction :
    ∃ t, sample.faultCode = 0 ∧ exec (.op2NNN 0x300) sample = .next t ∧ t.faultCode = 0 := ⟨_, by decide, rfl, by decide⟩
/-- One instruction outside each list of writers. -/
theorem witness_EachStateHasItsOwnWriters :
    (∃ t, exec (.op6XNN 3 1) sample = .next t) ∧ (∀ x, Instr.op6XNN 3 1 ≠ .opFX33 x ∧ Instr.op6XNN 3 1 ≠ .opFX55 x) ∧
    (Instr.op6XNN 3 1 ≠ .op00E0 ∧ ∀ x y n, Instr.op6XNN 3 1 ≠ .opDXYN x y n) ∧
    (∀ x nnn, Instr.op6XNN 3 1 ≠ .opANNN nnn ∧ Instr.op6XNN 3 1 ≠ .opFX1E x ∧ Instr.op6XNN 3 1 ≠ .opFX29 x) ∧
    (Instr.op6XNN 3 1 ≠ .op00EE ∧ ∀ nnn, Instr.op6XNN 3 1 ≠ .op2NNN nnn) ∧ (∀ x, Instr.op6XNN 3 1 ≠ .opFX15 x) ∧
    (∀ x, Instr.op6XNN 3 1 ≠ .opFX18 x) ∧ (∀ x nn, Instr.op6XNN 3 1 ≠ .opCXNN x nn) ∧
    ∀ code, ¬ Frame.handlerFault (.op6XNN 3 1) sample code := by
  exact ⟨⟨_, rfl⟩, by simp, by simp, by simp, by simp, by simp, by simp, by simp,
    by simp [Frame.handlerFault, Frame.dataBytes]⟩
theorem witness_KeysAreReadByThreeInstructions :
    ∀ x, Instr.op00E0 ≠ .opEX9E x ∧ Instr.op00E0 ≠ .opEXA1 x ∧ Instr.op00E0 ≠ .opFX0A x := by simp
theorem witness_SelfJumpIsARestingState :
    (State.reset.withFetchWord 16 0x1200).AtSelfJump ∧ (State.reset.withFetchWord 16 0x1200).faultCode = 0 ∧
    (State.reset.withFetchWord 16 0x1200).requests = [] ∧ (State.reset.withFetchWord 16 0x1200).schedule = .steps ∧
    (State.reset.withFetchWord 16 0x1200).event = .execute ∧ (State.reset.withFetchWord 16 0x1200).event ≠ .reset :=
  ⟨⟨0x200, by decide, by decide⟩, by decide, by decide, by decide, by decide, by decide⟩
/-- Each source of an event: a request before a free schedule, the schedule of steps, the free one; each kind. -/
theorem witness_EventsComeInOrder :
    ({ sample with requests := [.tick], schedule := .free 3 } : State).requests = .tick :: [] ∧
    sample.requests = [] ∧ sample.schedule = .steps ∧ ({ sample with schedule := .free 0 } : State).schedule = .free 0 ∧
    sample.event = .execute ∧ ({ sample with requests := [.tick], schedule := .free 3 } : State).event = .tick ∧
    ({ sample with requests := [.reset] } : State).event = .reset ∧
    ({ sample with requests := [.keys 1] } : State).event = .keys 1 := by decide
/-- A step that returns Ok, one that faults and one of a halted engine. -/
theorem witness_StatusReportsTheStep :
    (∃ t, step sample = .next t ∧ t.status = .ok) ∧
    (∃ t, step (State.reset.withFetchWord 16 0x00EE) = .next t ∧ t.status = .faulted 2 0x200 0) ∧
    (∃ t, step { sample with faultCode := 2 } = .next t ∧ t.status = .faulted 2 0 0) ∧ sample.event = .execute ∧
    sample.faultCode = 0 ∧ ({ sample with faultCode := 2 } : State).faultCode ≠ 0 ∧
    (∃ x, Instr.opFX0A 3 = .opFX0A x) :=
  ⟨⟨_, rfl, by decide⟩, ⟨_, rfl, by decide⟩, ⟨_, rfl, by decide⟩, by decide, by decide, by decide, ⟨3, rfl⟩⟩

end Sys2Proof.Tests
end

section
/-! PROOFS. Fetch and dispatch (spec/40_fetch_dispatch.md): what a fetch answers, what a step does when its fetch
fails, how the T = 0 words decode, and that a change of PC alone is a frame for everything else. -/

namespace Sys2Proof

/-! ### Decoding the T = 0 words -/

/-- A word with T = 0 goes to the secondary dispatch of R85. -/
theorem decodeWord_addrWord_zero (nnn : Addr12) : decodeWord (addrWord 0x0 nnn) = decode0 (addrWord 0x0 nnn) := by
  rw [decodeWord, fieldT_addrWord]
  rfl

/-- Two ADDR words with the same T are equal only if their literals are. -/
theorem addrWord_inj {t : Nibble} {a b : Addr12} (h : addrWord t a = addrWord t b) : a = b := by
  simpa using congrArg fieldNNN h

/-- Every 0x0NNN but 0x00E0 and 0x00EE is the no-op 0NNN (R89, R114). -/
theorem decodeWord_addrWord_0NNN {nnn : Addr12} (hE0 : nnn ≠ 0x0E0) (hEE : nnn ≠ 0x0EE) :
    decodeWord (addrWord 0x0 nnn) = .op0NNN nnn := by
  have h1 : addrWord 0x0 nnn ≠ 0x00E0 := fun h => hE0 (addrWord_inj (t := 0x0) h)
  have h2 : addrWord 0x0 nnn ≠ 0x00EE := fun h => hEE (addrWord_inj (t := 0x0) h)
  rw [decodeWord_addrWord_zero, decode0, if_neg h1, if_neg h2, fieldNNN_addrWord]

end Sys2Proof

namespace Sys2Proof.Machine

/-! ### What a fetch answers -/

/-- The word fetched is the byte at PC above the byte at PC + 1 (R64, R111). -/
theorem State.fetch_of_memRead {s : State} {hi lo : Byte} (hhi : s.memRead s.pc.toNat = some hi)
    (hlo : s.memRead (s.pc.toNat + 1) = some lo) : s.fetch = .ok (hi ++ lo) := by
  simp only [State.fetch, hhi, hlo]

/-- A fetch succeeds exactly when PC + 1 is inside memory (R111). -/
theorem State.exists_fetch_ok_iff (s : State) : (∃ w, s.fetch = .ok w) ↔ s.pc.toNat + 1 < Config.memSize := by
  constructor
  · rintro ⟨w, h⟩
    exact (State.fetch_ok h).1
  · intro h
    exact ⟨_, by rw [State.fetch_eq, if_pos h]⟩

/-- When PC + 1 is outside memory the fetch reports the lower of the two addresses that is outside (R188). -/
theorem State.fetch_outside {s : State} (h : Config.memSize ≤ s.pc.toNat + 1) :
    s.fetch = .error (max s.pc.toNat Config.memSize) := by
  rw [State.fetch_eq, if_neg (by omega)]

/-! ### A step whose fetch fails -/

/-- In an engine that is not halted a failed fetch is the fatal condition of R188. -/
theorem executeEvent_of_fetch_error {s : State} {a : Nat} (h0 : s.faultCode = 0) (hf : s.fetch = .error a) :
    executeEvent s = raise (.memRangeFetch a) s := by
  simp only [executeEvent, h0, hf, ne_eq, not_true_eq_false, if_false]

/-- The same for the transition that serves the step, wherever the event comes from. -/
theorem step_of_fetch_error {s : State} {a : Nat} (h0 : s.faultCode = 0) (he : s.event = .execute)
    (hf : s.fetch = .error a) : step s = raise (.memRangeFetch a) s.taken := by
  rw [step_of_execute he]
  exact executeEvent_of_fetch_error (by simpa using h0) (by simpa using hf)

/-! ### A change of PC alone -/

/-- Writing PC leaves every other part of the state as it was. -/
theorem allBut_jump (ds : List Reg) (s : State) (target : Word) : Frame.allBut ds s (s.jump target) :=
  ⟨fun _ _ => rfl, rfl, ⟨rfl, fun _ => rfl⟩, ⟨rfl, rfl⟩, ⟨rfl, rfl, rfl⟩, fun _ => rfl, fun _ _ => rfl,
    ⟨rfl, rfl, rfl⟩, ⟨rfl, rfl⟩⟩

/-- The fetch's increment leaves every other part of the state as it was. -/
theorem allBut_advance (ds : List Reg) (s : State) : Frame.allBut ds s s.advance := allBut_jump ds s (s.pc + 2)

/-- The meaning of 0NNN is the fetch's increment alone (R114). -/
theorem exec_op0NNN (nnn : Addr12) (s : State) : exec (.op0NNN nnn) s = .next s.advance := rfl

/-! ### The statements -/

/-- Settles O6: the fetch in closed form decides the first four clauses, and a step whose fetch fails raises the
address the fetch reports. -/
theorem fetchIsTwoBytesHighFirst : Obligations.FetchIsTwoBytesHighFirst := by
  have size : Config.memSize = 4096 := rfl
  have at4095 : ∀ s : State, s.pc.toNat = 4095 → s.fetch = .error 4096 := fun s h => by
    rw [State.fetch_outside (by omega), h]
    rfl
  refine ⟨fun s hi lo hhi hlo => State.fetch_of_memRead hhi hlo, fun s => ?_, fun s h => ?_, at4095,
    fun s h h0 he => ?_⟩
  · rw [State.exists_fetch_ok_iff]
    omega
  · rw [State.fetch_outside (by omega), max_eq_left h]
  · exact ⟨_, step_of_fetch_error h0 he (at4095 s h), (Fatal.code_range (.memRangeFetch 4096)).1, rfl⟩

/-- Settles O16: no such word is 00E0 or 00EE, and its meaning is the increment of PC, which frames all the rest. -/
theorem noOp0NNNOnlyAdvancesPc : Obligations.NoOp0NNNOnlyAdvancesPc := fun nnn s hE0 hEE =>
  ⟨decodeWord_addrWord_0NNN hE0 hEE, s.advance, exec_op0NNN nnn s, State.advance_pc s, allBut_advance [] s⟩

end Sys2Proof.Machine
end

section
/-! PROOFS. Control flow (spec/41_control_flow.md): how the words of the jumps and of the skips on register values
decode, where a jump and a skip leave PC and whether the fetch there succeeds, and the clearing of the display. -/

namespace Sys2Proof

/-! ### Decoding -/

theorem decodeWord_addrWord_1NNN (nnn : Addr12) : decodeWord (addrWord 0x1 nnn) = .op1NNN nnn := by
  rw [decodeWord, fieldT_addrWord, fieldNNN_addrWord]
  rfl

theorem decodeWord_addrWord_BNNN (nnn : Addr12) : decodeWord (addrWord 0xB nnn) = .opBNNN nnn := by
  rw [decodeWord, fieldT_addrWord, fieldNNN_addrWord]
  rfl

theorem decodeWord_regImmWord_3XNN (x : Reg) (nn : Byte) : decodeWord (regImmWord 0x3 x nn) = .op3XNN x nn := by
  rw [decodeWord, fieldT_regImmWord, fieldX_regImmWord, fieldNN_regImmWord]
  rfl

theorem decodeWord_regImmWord_4XNN (x : Reg) (nn : Byte) : decodeWord (regImmWord 0x4 x nn) = .op4XNN x nn := by
  rw [decodeWord, fieldT_regImmWord, fieldX_regImmWord, fieldNN_regImmWord]
  rfl

/-- With T = 5 and N = 0 the dispatch on N answers the instruction (R84, R90). -/
theorem decodeWord_regRegWord_5XY0 (x y : Reg) : decodeWord (regRegWord 0x5 x y 0x0) = .op5XY0 x y := by
  have dispatch : decodeWord (regRegWord 0x5 x y 0x0) = decode5 (regRegWord 0x5 x y 0x0) := by
    rw [decodeWord, fieldT_regRegWord]
    rfl
  rw [dispatch, decode5, if_pos (fieldN_regRegWord ..), fieldX_regRegWord, fieldY_regRegWord]

/-- With T = 9 and N = 0 the dispatch on N answers the instruction (R84, R90). -/
theorem decodeWord_regRegWord_9XY0 (x y : Reg) : decodeWord (regRegWord 0x9 x y 0x0) = .op9XY0 x y := by
  have dispatch : decodeWord (regRegWord 0x9 x y 0x0) = decode9 (regRegWord 0x9 x y 0x0) := by
    rw [decodeWord, fieldT_regRegWord]
    rfl
  rw [dispatch, decode9, if_pos (fieldN_regRegWord ..), fieldX_regRegWord, fieldY_regRegWord]

end Sys2Proof

namespace Sys2Proof.Machine

/-! ### The meanings -/

theorem exec_op00E0 (s : State) : exec .op00E0 s = .next { s.advance with fb := clearDisplay } := rfl

theorem exec_op1NNN (nnn : Addr12) (s : State) : exec (.op1NNN nnn) s = .next (s.jump (zextAddr nnn)) := rfl

theorem exec_opBNNN (nnn : Addr12) (s : State) :
    exec (.opBNNN nnn) s = .next (s.jump (zextAddr nnn + zextByte (s.reg 0))) := rfl

theorem exec_op3XNN (x : Reg) (nn : Byte) (s : State) :
    exec (.op3XNN x nn) s = .next (s.skipIf (s.reg x == nn)) := rfl

theorem exec_op4XNN (x : Reg) (nn : Byte) (s : State) :
    exec (.op4XNN x nn) s = .next (s.skipIf (s.reg x != nn)) := rfl

theorem exec_op5XY0 (x y : Reg) (s : State) : exec (.op5XY0 x y) s = .next (s.skipIf (s.reg x == s.reg y)) := rfl

theorem exec_op9XY0 (x y : Reg) (s : State) : exec (.op9XY0 x y) s = .next (s.skipIf (s.reg x != s.reg y)) := rfl

/-! ### Jumps -/

@[simp] theorem zextAddr_toNat (nnn : Addr12) : (zextAddr nnn).toNat = nnn.toNat :=
  BitVec.toNat_setWidth_of_le (by decide)

@[simp] theorem zextByte_toNat (b : Byte) : (zextByte b).toNat = b.toNat :=
  BitVec.toNat_setWidth_of_le (by decide)

/-- NNN + V0 is at most 0x10FE, so the 16-bit sum is the integer sum (R131). -/
theorem zextAddr_add_zextByte_toNat (nnn : Addr12) (b : Byte) :
    (zextAddr nnn + zextByte b).toNat = nnn.toNat + b.toNat := by
  rw [BitVec.toNat_add, zextAddr_toNat, zextByte_toNat]
  omega

/-- A jump to the address PC already holds changes nothing (R129). -/
@[simp] theorem State.jump_self (s : State) : s.jump s.pc = s := rfl

/-- A fetch fails exactly when PC + 1 is outside memory, at the lower address outside (R111, R188). -/
theorem State.fetch_error_iff (s : State) (a : Nat) :
    s.fetch = .error a ↔ Config.memSize ≤ s.pc.toNat + 1 ∧ a = max s.pc.toNat Config.memSize := by
  constructor
  · exact State.fetch_error
  · rintro ⟨h, rfl⟩
    exact State.fetch_outside h

/-! ### Skips -/

/-- A skip is a jump over one more instruction when its condition holds, else the fetch's increment (R125). -/
theorem State.skipIf_eq_jump (s : State) (c : Bool) : s.skipIf c = s.jump (if c then s.pc + 4 else s.pc + 2) := by
  cases c with
  | false => rfl
  | true => exact congrArg s.jump (BitVec.add_assoc s.pc 2 2)

/-- A skip leaves every other part of the state as it was. -/
theorem allBut_skipIf (ds : List Reg) (s : State) (c : Bool) : Frame.allBut ds s (s.skipIf c) := by
  rw [State.skipIf_eq_jump]
  exact allBut_jump ds s _

@[simp] theorem State.skipIf_pc (s : State) (c : Bool) : (s.skipIf c).pc = if c then s.pc + 4 else s.pc + 2 := by
  rw [State.skipIf_eq_jump, State.jump_pc]

theorem State.skipIf_beq_pc (s : State) (a b : Byte) :
    (s.skipIf (a == b)).pc = if a = b then s.pc + 4 else s.pc + 2 := by
  simp only [State.skipIf_pc, beq_iff_eq]

theorem State.skipIf_bne_pc (s : State) (a b : Byte) :
    (s.skipIf (a != b)).pc = if a = b then s.pc + 2 else s.pc + 4 := by
  simp only [State.skipIf_pc, bne_iff_ne, ite_not]

/-! ### The statements -/

/-- Settles O18: the grid is the clear one, and the rest of the state is that of the fetch's increment. -/
theorem clearDisplaySetsEveryPixelZero : Obligations.ClearDisplaySetsEveryPixelZero := fun s =>
  have ⟨hregs, hindex, hstack, htimers, hlatch, hmemory, _, hinputs, hpending⟩ := allBut_advance [] s
  ⟨rfl, _, exec_op00E0 s, clearDisplay_pixel, State.advance_pc s, hregs, hindex, hstack, htimers, hlatch, hmemory,
    hinputs, hpending⟩

/-- Settles O19: the 12-bit target fits PC, so the fetch there fails only when its second byte is at 4096. -/
theorem jumpGoesToLiteral : Obligations.JumpGoesToLiteral := by
  intro nnn s
  refine ⟨decodeWord_addrWord_1NNN nnn, _, exec_op1NNN nnn s, zextAddr_toNat nnn, allBut_jump [] s _,
    fun hpc => ?_, fun a => ?_⟩
  · have target : zextAddr nnn = s.pc := BitVec.eq_of_toNat_eq (by rw [zextAddr_toNat, hpc])
    rw [target, State.jump_self]
  · have last : nnn = 0xFFF ↔ nnn.toNat = 0xFFF := BitVec.toNat_inj.symm
    rw [State.fetch_error_iff, State.jump_pc, zextAddr_toNat, last, Config.memSize]
    omega

/-- Settles O24: the sum does not wrap, so the fetch at the target fails as the fetch's closed form says. -/
theorem jumpWithOffsetAddsV0 : Obligations.JumpWithOffsetAddsV0 := by
  intro nnn s
  have target := zextAddr_add_zextByte_toNat nnn (s.reg 0)
  refine ⟨decodeWord_addrWord_BNNN nnn, _, exec_opBNNN nnn s, target, allBut_jump [] s _, fun a => ?_⟩
  rw [State.fetch_error_iff, State.jump_pc, target, Config.memSize]
  omega

/-- Settles O25: each is a skip on its own comparison, and a skip moves PC alone. -/
theorem skipsComparingLiteral : Obligations.SkipsComparingLiteral := fun x nn s =>
  ⟨⟨decodeWord_regImmWord_3XNN x nn, _, exec_op3XNN x nn s, State.skipIf_beq_pc .., allBut_skipIf ..⟩,
    ⟨decodeWord_regImmWord_4XNN x nn, _, exec_op4XNN x nn s, State.skipIf_bne_pc .., allBut_skipIf ..⟩⟩

/-- Settles O26: each is a skip on its own comparison, which X = Y decides. -/
theorem skipsComparingRegisters : Obligations.SkipsComparingRegisters := by
  intro x y s
  have eqPc := State.skipIf_beq_pc s (s.reg x) (s.reg y)
  have nePc := State.skipIf_bne_pc s (s.reg x) (s.reg y)
  refine ⟨⟨decodeWord_regRegWord_5XY0 x y, _, exec_op5XY0 x y s, eqPc, fun hxy => ?_, allBut_skipIf ..⟩,
    ⟨decodeWord_regRegWord_9XY0 x y, _, exec_op9XY0 x y s, nePc, fun hxy => ?_, allBut_skipIf ..⟩⟩
  · rw [eqPc, if_pos (congrArg s.reg hxy)]
  · rw [nePc, if_pos (congrArg s.reg hxy)]

end Sys2Proof.Machine
end

section
/-! PROOFS. Register arithmetic (spec/42_register_arithmetic.md): how the words of the instructions that write no
flag decode, and that each writes one register, or I alone, on top of the fetch's increment. -/

namespace Sys2Proof

/-! ### Decoding -/

theorem decodeWord_regImmWord_6XNN (x : Reg) (nn : Byte) : decodeWord (regImmWord 0x6 x nn) = .op6XNN x nn := by
  rw [decodeWord, fieldT_regImmWord, fieldX_regImmWord, fieldNN_regImmWord]
  rfl

theorem decodeWord_regImmWord_7XNN (x : Reg) (nn : Byte) : decodeWord (regImmWord 0x7 x nn) = .op7XNN x nn := by
  rw [decodeWord, fieldT_regImmWord, fieldX_regImmWord, fieldNN_regImmWord]
  rfl

theorem decodeWord_addrWord_ANNN (nnn : Addr12) : decodeWord (addrWord 0xA nnn) = .opANNN nnn := by
  rw [decodeWord, fieldT_addrWord, fieldNNN_addrWord]
  rfl

/-- A REGREG word with T = 8 is the row that the secondary dispatch answers for its N (R85). -/
theorem decodeWord_regRegWord_eight {n : Nibble} {row : Reg → Reg → Instr}
    (dispatch : ∀ w, fieldN w = n → decode8 w = row (fieldX w) (fieldY w)) (x y : Reg) :
    decodeWord (regRegWord 0x8 x y n) = row x y := by
  have primary : decodeWord (regRegWord 0x8 x y n) = decode8 (regRegWord 0x8 x y n) := by
    rw [decodeWord, fieldT_regRegWord]
    rfl
  rw [primary, dispatch _ (fieldN_regRegWord ..), fieldX_regRegWord, fieldY_regRegWord]

theorem decodeWord_regRegWord_8XY0 (x y : Reg) : decodeWord (regRegWord 0x8 x y 0x0) = .op8XY0 x y :=
  decodeWord_regRegWord_eight (fun w hn => by rw [decode8, hn]; rfl) x y

theorem decodeWord_regRegWord_8XY1 (x y : Reg) : decodeWord (regRegWord 0x8 x y 0x1) = .op8XY1 x y :=
  decodeWord_regRegWord_eight (fun w hn => by rw [decode8, hn]; rfl) x y

theorem decodeWord_regRegWord_8XY2 (x y : Reg) : decodeWord (regRegWord 0x8 x y 0x2) = .op8XY2 x y :=
  decodeWord_regRegWord_eight (fun w hn => by rw [decode8, hn]; rfl) x y

theorem decodeWord_regRegWord_8XY3 (x y : Reg) : decodeWord (regRegWord 0x8 x y 0x3) = .op8XY3 x y :=
  decodeWord_regRegWord_eight (fun w hn => by rw [decode8, hn]; rfl) x y

/-- With T = 0xF and the function byte 0x1E the dispatch on NN answers the instruction (R85). -/
theorem decodeWord_regImmWord_FX1E (x : Reg) : decodeWord (regImmWord 0xF x 0x1E) = .opFX1E x := by
  have primary : decodeWord (regImmWord 0xF x 0x1E) = decodeF (regImmWord 0xF x 0x1E) := by
    rw [decodeWord, fieldT_regImmWord]
    rfl
  rw [primary, decodeF, fieldNN_regImmWord, fieldX_regImmWord]
  rfl

end Sys2Proof

namespace Sys2Proof.Machine

/-! ### The meanings -/

theorem exec_op6XNN (x : Reg) (nn : Byte) (s : State) : exec (.op6XNN x nn) s = .next (s.advance.setReg x nn) := rfl

theorem exec_op7XNN (x : Reg) (nn : Byte) (s : State) :
    exec (.op7XNN x nn) s = .next (s.advance.setReg x (s.reg x + nn)) := rfl

theorem exec_op8XY0 (x y : Reg) (s : State) : exec (.op8XY0 x y) s = .next (s.advance.setReg x (s.reg y)) := rfl

theorem exec_op8XY1 (x y : Reg) (s : State) :
    exec (.op8XY1 x y) s = .next (s.advance.setReg x (s.reg x ||| s.reg y)) := rfl

theorem exec_op8XY2 (x y : Reg) (s : State) :
    exec (.op8XY2 x y) s = .next (s.advance.setReg x (s.reg x &&& s.reg y)) := rfl

theorem exec_op8XY3 (x y : Reg) (s : State) :
    exec (.op8XY3 x y) s = .next (s.advance.setReg x (s.reg x ^^^ s.reg y)) := rfl

theorem exec_opANNN (nnn : Addr12) (s : State) :
    exec (.opANNN nnn) s = .next { s.advance with i := zextAddr nnn } := rfl

theorem exec_opFX1E (x : Reg) (s : State) :
    exec (.opFX1E x) s = .next { s.advance with i := s.i + zextByte (s.reg x) } := rfl

/-! ### One register written, or I -/

@[simp] theorem State.setReg_reg_same (s : State) (x : Reg) (b : Byte) : (s.setReg x b).reg x = b := by
  rw [State.setReg_reg, if_pos rfl]

/-- A register write after the fetch's increment leaves everything but that register and PC as it was. -/
theorem allBut_advance_setReg (x : Reg) (b : Byte) (s : State) : Frame.allBut [x] s (s.advance.setReg x b) := by
  obtain ⟨_, others⟩ := allBut_advance [x] s
  refine ⟨fun r hr => ?_, others⟩
  rw [State.setReg_reg, if_neg (by simpa using hr), State.advance_reg]

/-- A write of I after the fetch's increment leaves everything but I and PC as it was. -/
theorem allButIndex_advance_index (w : Word) (s : State) : Frame.allButIndex s { s.advance with i := w } := by
  obtain ⟨hregs, _, others⟩ := allBut_advance [] s
  exact ⟨hregs, others⟩

/-- Adding a byte to I wraps modulo 65536 (R155). -/
theorem add_zextByte_toNat (w : Word) (b : Byte) : (w + zextByte b).toNat = (w.toNat + b.toNat) % 65536 := by
  rw [BitVec.toNat_add, zextByte_toNat]

/-! ### The statements -/

/-- Settles O28: each writes VX alone, and the byte sum is the integer sum modulo 256. -/
theorem loadAddLiteralAndCopy : Obligations.LoadAddLiteralAndCopy := by
  intro x y nn s
  have sum : ((s.advance.setReg x (s.reg x + nn)).reg x).toNat = ((s.reg x).toNat + nn.toNat) % 256 := by
    rw [State.setReg_reg_same, BitVec.toNat_add]
  exact
    ⟨⟨decodeWord_regImmWord_6XNN x nn, _, exec_op6XNN x nn s, State.setReg_reg_same .., State.advance_pc s,
      allBut_advance_setReg ..⟩,
    ⟨decodeWord_regImmWord_7XNN x nn, _, exec_op7XNN x nn s, sum, State.advance_pc s, allBut_advance_setReg ..⟩,
    ⟨decodeWord_regRegWord_8XY0 x y, _, exec_op8XY0 x y s, State.setReg_reg_same .., State.advance_pc s,
      allBut_advance_setReg ..⟩⟩

/-- Settles O29: each writes VX alone, with the bitwise operation of the two registers. -/
theorem bitwiseLogicWritesNoFlag : Obligations.BitwiseLogicWritesNoFlag := by
  intro x y s
  refine
    ⟨⟨decodeWord_regRegWord_8XY1 x y, _, exec_op8XY1 x y s, fun k => ?_, State.advance_pc s,
      allBut_advance_setReg ..⟩,
    ⟨decodeWord_regRegWord_8XY2 x y, _, exec_op8XY2 x y s, fun k => ?_, State.advance_pc s,
      allBut_advance_setReg ..⟩,
    ⟨decodeWord_regRegWord_8XY3 x y, _, exec_op8XY3 x y s, fun k => ?_, State.advance_pc s,
      allBut_advance_setReg ..⟩⟩
  · rw [State.setReg_reg_same, BitVec.getLsbD_or]
  · rw [State.setReg_reg_same, BitVec.getLsbD_and]
  · rw [State.setReg_reg_same, BitVec.getLsbD_xor]

/-- Settles O33: each writes I alone; a 12-bit literal fits I, and the sum with VX is taken modulo 65536. -/
theorem indexLoadAndAdd : Obligations.IndexLoadAndAdd :=
  ⟨fun nnn s => ⟨decodeWord_addrWord_ANNN nnn, _, exec_opANNN nnn s, zextAddr_toNat nnn, State.advance_pc s,
      allButIndex_advance_index ..⟩,
    fun x s => ⟨decodeWord_regImmWord_FX1E x, _, exec_opFX1E x s, add_zextByte_toNat .., State.advance_pc s,
      allButIndex_advance_index ..⟩⟩

end Sys2Proof.Machine
end

section
/-! PROOFS. Memory, display and timers (spec/43_memory_display_timer.md): how the words of the timer instructions
decode, what each of them means, and the sound output as a function of ST. -/

namespace Sys2Proof

/-! ### Decoding -/

/-- A REGFN word with T = 0xF is the row that the secondary dispatch answers for its function byte (R85). -/
theorem decodeWord_regImmWord_fifteen {nn : Byte} {row : Reg → Instr}
    (dispatch : ∀ w, fieldNN w = nn → decodeF w = row (fieldX w)) (x : Reg) :
    decodeWord (regImmWord 0xF x nn) = row x := by
  have primary : decodeWord (regImmWord 0xF x nn) = decodeF (regImmWord 0xF x nn) := by
    rw [decodeWord, fieldT_regImmWord]
    rfl
  rw [primary, dispatch _ (fieldNN_regImmWord ..), fieldX_regImmWord]

theorem decodeWord_regImmWord_FX07 (x : Reg) : decodeWord (regImmWord 0xF x 0x07) = .opFX07 x :=
  decodeWord_regImmWord_fifteen (fun w hnn => by rw [decodeF, hnn]; rfl) x

theorem decodeWord_regImmWord_FX15 (x : Reg) : decodeWord (regImmWord 0xF x 0x15) = .opFX15 x :=
  decodeWord_regImmWord_fifteen (fun w hnn => by rw [decodeF, hnn]; rfl) x

theorem decodeWord_regImmWord_FX18 (x : Reg) : decodeWord (regImmWord 0xF x 0x18) = .opFX18 x :=
  decodeWord_regImmWord_fifteen (fun w hnn => by rw [decodeF, hnn]; rfl) x

end Sys2Proof

namespace Sys2Proof.Machine

/-! ### The meanings -/

theorem exec_opFX07 (x : Reg) (s : State) : exec (.opFX07 x) s = .next (s.advance.setReg x s.dt) := rfl

theorem exec_opFX15 (x : Reg) (s : State) : exec (.opFX15 x) s = .next { s.advance with dt := s.reg x } := rfl

theorem exec_opFX18 (x : Reg) (s : State) : exec (.opFX18 x) s = .next { s.advance with st := s.reg x } := rfl

/-- The sound output is on exactly while ST is not 0 (R36, D15). -/
theorem State.soundOn_iff (s : State) : s.soundOn = true ↔ s.st ≠ 0 := decide_eq_true_iff

/-! ### The statement -/

/-- Settles O44: FX07 writes VX alone; FX15 and FX18 write one timer on top of the fetch's increment, whose frame
holds for the rest, and the outputs are read off ST. -/
theorem timerInstructionsMoveOneTimer : Obligations.TimerInstructionsMoveOneTimer := by
  intro x s
  obtain ⟨hregs, hindex, hstack, ⟨hdt, hst⟩, hlatch, hmemory, hdisplay, hinputs, hpending⟩ := allBut_advance [] s
  refine ⟨⟨decodeWord_regImmWord_FX07 x, _, exec_opFX07 x s, ?_⟩,
    ⟨decodeWord_regImmWord_FX15 x, _, exec_opFX15 x s, ?_⟩,
    ⟨decodeWord_regImmWord_FX18 x, _, exec_opFX18 x s, ?_⟩⟩
  · exact ⟨State.setReg_reg_same .., State.advance_pc s, allBut_advance_setReg ..⟩
  · exact ⟨rfl, hst, State.advance_pc s, hregs, hindex, hstack, hlatch, hmemory, hdisplay, hinputs, hpending⟩
  · exact ⟨rfl, rfl, State.soundOn_iff _, hdt, State.advance_pc s, hregs, hindex, hstack, hlatch, hmemory, hdisplay,
      hinputs, hpending⟩

end Sys2Proof.Machine
end

section
/-! PROOFS. Encoding (spec/30_encoding.md): the decoder takes the first row of the opcode map that selects the word,
encoding is its inverse on every word, and it is the inverse of encoding on every well-formed instruction. -/

namespace Sys2Proof

/-! ### The first row, by the fields of the word -/

/-- The rows of the opcode map whose pattern has the given T, in priority order. -/
def rowsOfT (t : Nibble) : List OpRow := opcodeRows.filter fun r => fieldT r.pattern == t

/-- The number of the first row that meets a test, and 36, the catch-all's number, when none does (R86, R87). -/
def firstRow (p : OpRow → Bool) (rows : List OpRow) : Nat := ((rows.find? p).map OpRow.priority).getD 36

/-- The number of the row that R87 gives a word. -/
def rowNumber (w : Word) : Nat := firstRow (fun r => r.selects w) opcodeRows

theorem firstRow_of_none {p : OpRow → Bool} {rows : List OpRow} (h : ∀ r ∈ rows, p r = false) :
    firstRow p rows = 36 := by
  rw [firstRow, List.find?_eq_none.mpr (by simpa using h)]
  rfl

/-- Every mask keeps T, so a row selects only words with its own T. -/
theorem fieldT_of_selects {r : OpRow} {w : Word} (hr : r ∈ opcodeRows) (hs : r.selects w = true) :
    fieldT r.pattern = fieldT w := by
  have hmask : ∀ r ∈ opcodeRows, fieldT r.mask = BitVec.allOnes 4 := by decide
  have hand : w &&& r.mask = r.pattern := by simpa [OpRow.selects] using hs
  have hfield : fieldT (w &&& r.mask) = fieldT w &&& fieldT r.mask := BitVec.extractLsb'_and
  rw [← hand, hfield, hmask r hr, BitVec.and_allOnes]

/-- So only the rows of a word's own T matter; and any test that agrees with the selection on them finds the row. -/
theorem rowNumber_eq {w : Word} {t : Nibble} {p : OpRow → Bool} (hT : fieldT w = t)
    (hp : ∀ r ∈ rowsOfT t, r.selects w = p r) : rowNumber w = firstRow p (rowsOfT t) := by
  subst hT
  have own : opcodeRows.find? (fun r => r.selects w) = (rowsOfT (fieldT w)).find? (fun r => r.selects w) := by
    rw [rowsOfT, List.find?_filter]
    refine List.find?_congr fun r hr => ?_
    cases hs : r.selects w with
    | false => simp
    | true => simpa using fieldT_of_selects hr hs
  rw [rowNumber, firstRow, own, List.find?_congr hp, firstRow]

/-- A T whose one row is an ADDR, REGIMM or DRAW row gives every word that row. -/
theorem rowNumber_of_fieldT {w : Word} {t : Nibble} {k : Nat} (hT : fieldT w = t)
    (hrows : (rowsOfT t).map (fun r => (r.priority, r.mask, r.pattern)) = [(k, 0xF000, addrWord t 0)]) :
    rowNumber w = k := by
  obtain ⟨r, rs, hcons, hr, hrs⟩ := List.map_eq_cons_iff.mp hrows
  obtain ⟨hk, hm, hpat⟩ : r.priority = k ∧ r.mask = 0xF000 ∧ r.pattern = addrWord t 0 := by simpa using hr
  have hs : r.selects w = true := by rw [OpRow.selects, hm, hpat, beq_iff_eq, Laws.selects_F000, hT]
  rw [rowNumber_eq hT fun _ _ => rfl, firstRow, hcons, List.find?_cons, hs]
  exact hk

/-- A T all of whose rows are REGREG rows is decided by N. -/
theorem rowNumber_of_fieldN {w : Word} {t : Nibble} (hT : fieldT w = t)
    (hrows : ∀ r ∈ rowsOfT t, r.mask = 0xF00F ∧ r.pattern = regRegWord t 0 0 (fieldN r.pattern)) :
    rowNumber w = firstRow (fun r => (fieldN w).toNat == (fieldN r.pattern).toNat) (rowsOfT t) := by
  refine rowNumber_eq hT fun r hr => ?_
  obtain ⟨hm, hpat⟩ := hrows r hr
  have hiff := Laws.selects_F00F w t (fieldN r.pattern)
  rw [← hpat, ← hm, ← BitVec.toNat_inj (x := fieldN w)] at hiff
  rw [Bool.eq_iff_iff, OpRow.selects, beq_iff_eq, beq_iff_eq, hiff, and_iff_right hT]

/-- A T all of whose rows are REGFN rows is decided by NN. -/
theorem rowNumber_of_fieldNN {w : Word} {t : Nibble} (hT : fieldT w = t)
    (hrows : ∀ r ∈ rowsOfT t, r.mask = 0xF0FF ∧ r.pattern = regImmWord t 0 (fieldNN r.pattern)) :
    rowNumber w = firstRow (fun r => (fieldNN w).toNat == (fieldNN r.pattern).toNat) (rowsOfT t) := by
  refine rowNumber_eq hT fun r hr => ?_
  obtain ⟨hm, hpat⟩ := hrows r hr
  have hiff := Laws.selects_F0FF w t (fieldNN r.pattern)
  rw [← hpat, ← hm, ← BitVec.toNat_inj (x := fieldNN w)] at hiff
  rw [Bool.eq_iff_iff, OpRow.selects, beq_iff_eq, beq_iff_eq, hiff, and_iff_right hT]

/-! ### Each dispatch gives the row's number -/

/-- When the dispatched field is none of a list of values that every row's is of, no row is found. -/
theorem firstRow_of_not_mem {n : Nat} {field : OpRow → Nat} {rows : List OpRow} (values : List Nat)
    (hrows : ∀ r ∈ rows, field r ∈ values) (hn : n ∉ values) : firstRow (fun r => n == field r) rows = 36 :=
  firstRow_of_none fun r hr => beq_eq_false_iff_ne.mpr fun h => hn (h ▸ hrows r hr)

theorem decode0_priority {w : Word} (hT : fieldT w = 0x0) : (decode0 w).priority = rowNumber w := by
  fun_cases decode0 w with
  | case1 h => subst h; rfl
  | case2 _ h => subst h; rfl
  | case3 hE0 hEE =>
    have rows : ∀ r ∈ rowsOfT 0x0, (r.mask = 0xFFFF ∧ (r.pattern = 0x00E0 ∨ r.pattern = 0x00EE)) ∨
        (r.mask = 0xF000 ∧ r.pattern = 0x0000) := by decide
    have hrow : w &&& 0xF000 = 0x0000 := (Laws.selects_F000 w 0).mpr hT
    have hand : w &&& 0xFFFF = w := BitVec.and_allOnes
    rw [rowNumber_eq (p := fun r => r.pattern == 0x0000) hT]
    · rfl
    · intro r hr
      obtain ⟨hm, hp | hp⟩ | ⟨hm, hp⟩ := rows r hr <;> rw [OpRow.selects, hm, hp]
      · rw [hand]; exact beq_eq_false_iff_ne.mpr hE0
      · rw [hand]; exact beq_eq_false_iff_ne.mpr hEE
      · rw [hrow]

theorem decode5_priority {w : Word} (hT : fieldT w = 0x5) : (decode5 w).priority = rowNumber w := by
  rw [rowNumber_of_fieldN hT (by decide)]
  fun_cases decode5 w with
  | case1 hN => rw [hN]; rfl
  | case2 hN => exact (firstRow_of_not_mem [0] (by decide) (by simpa [← BitVec.toNat_inj] using hN)).symm

theorem decode9_priority {w : Word} (hT : fieldT w = 0x9) : (decode9 w).priority = rowNumber w := by
  rw [rowNumber_of_fieldN hT (by decide)]
  fun_cases decode9 w with
  | case1 hN => rw [hN]; rfl
  | case2 hN => exact (firstRow_of_not_mem [0] (by decide) (by simpa [← BitVec.toNat_inj] using hN)).symm

theorem decode8_priority {w : Word} (hT : fieldT w = 0x8) : (decode8 w).priority = rowNumber w := by
  rw [rowNumber_of_fieldN hT (by decide)]
  fun_cases decode8 w
  case case10 => exact (firstRow_of_not_mem [0, 1, 2, 3, 4, 5, 6, 7, 14] (by decide) (by simp_all)).symm
  all_goals
    next hN => rw [hN]; rfl

theorem decodeE_priority {w : Word} (hT : fieldT w = 0xE) : (decodeE w).priority = rowNumber w := by
  rw [rowNumber_of_fieldNN hT (by decide)]
  fun_cases decodeE w
  case case3 => exact (firstRow_of_not_mem [0x9E, 0xA1] (by decide) (by simp_all)).symm
  all_goals
    next hNN => rw [hNN]; rfl

theorem decodeF_priority {w : Word} (hT : fieldT w = 0xF) : (decodeF w).priority = rowNumber w := by
  rw [rowNumber_of_fieldNN hT (by decide)]
  fun_cases decodeF w
  case case10 =>
    exact (firstRow_of_not_mem [0x07, 0x0A, 0x15, 0x18, 0x1E, 0x29, 0x33, 0x55, 0x65] (by decide) (by simp_all)).symm
  all_goals
    next hNN => rw [hNN]; rfl

theorem fieldT_of_toNat {w : Word} {n : Nat} (h : (fieldT w).toNat = n) : fieldT w = BitVec.ofNat 4 n := by
  rw [← h, BitVec.ofNat_toNat, BitVec.setWidth_eq]

/-- The last arm of the primary dispatch is T = 0xF. -/
theorem fieldT_eq_fifteen {w : Word} (h : ∀ n < 15, (fieldT w).toNat ≠ n) : fieldT w = 0xF := by
  have hlt : (fieldT w).toNat < 16 := (fieldT w).isLt
  have hge : ¬ (fieldT w).toNat < 15 := fun hlt' => h _ hlt' rfl
  exact BitVec.eq_of_toNat_eq (show (fieldT w).toNat = 15 by omega)

/-- The number of the decoded instruction is that of the first row that selects the word. Case k + 1 is T = k. -/
theorem decodeWord_priority (w : Word) : (decodeWord w).priority = rowNumber w := by
  fun_cases decodeWord w
  case case1 h => exact decode0_priority (fieldT_of_toNat h)
  case case6 h => exact decode5_priority (fieldT_of_toNat h)
  case case9 h => exact decode8_priority (fieldT_of_toNat h)
  case case10 h => exact decode9_priority (fieldT_of_toNat h)
  case case15 h => exact decodeE_priority (fieldT_of_toNat h)
  case case16 => exact decodeF_priority (fieldT_eq_fifteen (by intro n hn; interval_cases n <;> assumption))
  all_goals
    next h => exact (rowNumber_of_fieldT (fieldT_of_toNat h) rfl).symm

/-! ### Encoding what was decoded -/

theorem addrWord_of_fieldT {w : Word} {t : Nibble} (hT : fieldT w = t) : addrWord t (fieldNNN w) = w := by
  rw [← hT, addrWord_fields]

theorem regImmWord_of_fieldT {w : Word} {t : Nibble} (hT : fieldT w = t) :
    regImmWord t (fieldX w) (fieldNN w) = w := by
  rw [← hT, regImmWord_fields]

theorem regRegWord_of_fieldT {w : Word} {t : Nibble} (hT : fieldT w = t) :
    regRegWord t (fieldX w) (fieldY w) (fieldN w) = w := by
  rw [← hT, regRegWord_fields]

/-- A REGREG word with its function nibble in place of N. -/
theorem regRegWord_of_fieldN {w : Word} {t : Nibble} {n : Nat} (hT : fieldT w = t) (hN : (fieldN w).toNat = n) :
    regRegWord t (fieldX w) (fieldY w) (BitVec.ofNat 4 n) = w := by
  rw [← hN, BitVec.ofNat_toNat, BitVec.setWidth_eq, regRegWord_of_fieldT hT]

/-- A REGFN word with its function byte in place of NN. -/
theorem regImmWord_of_fieldNN {w : Word} {t : Nibble} {nn : Nat} (hT : fieldT w = t) (hNN : (fieldNN w).toNat = nn) :
    regImmWord t (fieldX w) (BitVec.ofNat 8 nn) = w := by
  rw [← hNN, BitVec.ofNat_toNat, BitVec.setWidth_eq, regImmWord_of_fieldT hT]

theorem encode_decode0 {w : Word} (hT : fieldT w = 0x0) : encode (decode0 w) = w := by
  fun_cases decode0 w with
  | case1 h => exact h.symm
  | case2 _ h => exact h.symm
  | case3 => exact addrWord_of_fieldT hT

theorem encode_decode5 {w : Word} (hT : fieldT w = 0x5) : encode (decode5 w) = w := by
  fun_cases decode5 w with
  | case1 hN => exact regRegWord_of_fieldN hT (congrArg BitVec.toNat hN)
  | case2 => rfl

theorem encode_decode9 {w : Word} (hT : fieldT w = 0x9) : encode (decode9 w) = w := by
  fun_cases decode9 w with
  | case1 hN => exact regRegWord_of_fieldN hT (congrArg BitVec.toNat hN)
  | case2 => rfl

theorem encode_decode8 {w : Word} (hT : fieldT w = 0x8) : encode (decode8 w) = w := by
  fun_cases decode8 w
  case case10 => rfl
  all_goals
    next hN => exact regRegWord_of_fieldN hT hN

theorem encode_decodeE {w : Word} (hT : fieldT w = 0xE) : encode (decodeE w) = w := by
  fun_cases decodeE w
  case case3 => rfl
  all_goals
    next hNN => exact regImmWord_of_fieldNN hT hNN

theorem encode_decodeF {w : Word} (hT : fieldT w = 0xF) : encode (decodeF w) = w := by
  fun_cases decodeF w
  case case10 => rfl
  all_goals
    next hNN => exact regImmWord_of_fieldNN hT hNN

/-- The instruction a word decodes to has that word. Case k + 1 is T = k. -/
theorem encode_decodeWord (w : Word) : encode (decodeWord w) = w := by
  fun_cases decodeWord w
  case case1 h => exact encode_decode0 (fieldT_of_toNat h)
  case case6 h => exact encode_decode5 (fieldT_of_toNat h)
  case case9 h => exact encode_decode8 (fieldT_of_toNat h)
  case case10 h => exact encode_decode9 (fieldT_of_toNat h)
  case case15 h => exact encode_decodeE (fieldT_of_toNat h)
  case case16 => exact encode_decodeF (fieldT_eq_fifteen (by intro n hn; interval_cases n <;> assumption))
  case case14 h => exact regRegWord_of_fieldT (fieldT_of_toNat h)
  case case2 h | case3 h | case11 h | case12 h => exact addrWord_of_fieldT (fieldT_of_toNat h)
  case case4 h | case5 h | case7 h | case8 h | case13 h => exact regImmWord_of_fieldT (fieldT_of_toNat h)

/-! ### Well-formedness of what was decoded -/

theorem wf0NNN_iff (nnn : Addr12) : wf0NNN nnn = true ↔ nnn ≠ 0x0E0 ∧ nnn ≠ 0x0EE := by
  rw [wf0NNN, Bool.and_eq_true, bne_iff_ne, bne_iff_ne]

/-- Only 0NNN and UNMAPPED can be ill-formed. -/
theorem Instr.wf_of {i : Instr} (h0NNN : ∀ nnn, i = .op0NNN nnn → wf0NNN nnn = true)
    (hUnmapped : ∀ w, i = .unmapped w → wfUnmapped w = true) : i.wf = true := by
  cases i with
  | op0NNN nnn => exact h0NNN nnn rfl
  | unmapped w => exact hUnmapped w rfl
  | _ => rfl

/-- UNMAPPED alone has the number of the catch-all. -/
theorem Instr.eq_unmapped_of_priority {i : Instr} (h : i.priority = 36) : i = .unmapped (encode i) := by
  cases i with
  | unmapped w => rfl
  | _ => cases h

/-- The catch-all is taken exactly when no row selects the word (R87, R88). -/
theorem rowNumber_eq_iff (w : Word) : rowNumber w = 36 ↔ wfUnmapped w = true := by
  have numbers : ∀ r ∈ opcodeRows, r.priority ≠ 36 := by decide
  rw [wfUnmapped, rowNumber, firstRow]
  cases hf : opcodeRows.find? fun r => r.selects w with
  | none => simpa using hf
  | some r =>
    have hr := List.mem_of_find?_eq_some hf
    have hs : r.selects w = true := by simpa using List.find?_some hf
    refine iff_of_false (numbers r hr) fun hall => ?_
    have := List.all_eq_true.mp hall r hr
    rw [hs] at this
    cases this

/-- A word decodes to UNMAPPED, which keeps it, exactly when no row selects it (R87, R88). -/
theorem decodeWord_eq_unmapped_iff (w : Word) : decodeWord w = .unmapped w ↔ wfUnmapped w = true := by
  rw [← rowNumber_eq_iff, ← decodeWord_priority]
  constructor
  · intro h
    rw [h]
    rfl
  · intro h
    rw [Instr.eq_unmapped_of_priority h, encode_decodeWord]

/-- What a word decodes to is well-formed (R87, R89). -/
theorem wf_decodeWord (w : Word) : (decodeWord w).wf = true := by
  refine Instr.wf_of (fun nnn h => ?_) fun w' h => ?_
  · have hw : addrWord 0x0 nnn = w := by rw [← encode_decodeWord w, h]; rfl
    have hne (c : Addr12) (hc : decodeWord (addrWord 0x0 c) ≠ .op0NNN c) : nnn ≠ c := by
      rintro rfl
      exact hc (hw ▸ h)
    exact (wf0NNN_iff nnn).mpr ⟨hne 0x0E0 (by decide), hne 0x0EE (by decide)⟩
  · obtain rfl : w' = w := by rw [← encode_decodeWord w, h]; rfl
    exact (decodeWord_eq_unmapped_iff w').mp h

/-! ### Decoding what was encoded -/

theorem decodeWord_addrWord_2NNN (nnn : Addr12) : decodeWord (addrWord 0x2 nnn) = .op2NNN nnn := by
  rw [decodeWord, fieldT_addrWord, fieldNNN_addrWord]
  rfl

theorem decodeWord_regImmWord_CXNN (x : Reg) (nn : Byte) : decodeWord (regImmWord 0xC x nn) = .opCXNN x nn := by
  rw [decodeWord, fieldT_regImmWord, fieldX_regImmWord, fieldNN_regImmWord]
  rfl

theorem decodeWord_regRegWord_DXYN (x y : Reg) (n : Nibble) : decodeWord (regRegWord 0xD x y n) = .opDXYN x y n := by
  rw [decodeWord, fieldT_regRegWord, fieldX_regRegWord, fieldY_regRegWord, fieldN_regRegWord]
  rfl

theorem decodeWord_regRegWord_8XY4 (x y : Reg) : decodeWord (regRegWord 0x8 x y 0x4) = .op8XY4 x y :=
  decodeWord_regRegWord_eight (fun w hn => by rw [decode8, hn]; rfl) x y

theorem decodeWord_regRegWord_8XY5 (x y : Reg) : decodeWord (regRegWord 0x8 x y 0x5) = .op8XY5 x y :=
  decodeWord_regRegWord_eight (fun w hn => by rw [decode8, hn]; rfl) x y

theorem decodeWord_regRegWord_8XY6 (x y : Reg) : decodeWord (regRegWord 0x8 x y 0x6) = .op8XY6 x y :=
  decodeWord_regRegWord_eight (fun w hn => by rw [decode8, hn]; rfl) x y

theorem decodeWord_regRegWord_8XY7 (x y : Reg) : decodeWord (regRegWord 0x8 x y 0x7) = .op8XY7 x y :=
  decodeWord_regRegWord_eight (fun w hn => by rw [decode8, hn]; rfl) x y

theorem decodeWord_regRegWord_8XYE (x y : Reg) : decodeWord (regRegWord 0x8 x y 0xE) = .op8XYE x y :=
  decodeWord_regRegWord_eight (fun w hn => by rw [decode8, hn]; rfl) x y

/-- A REGFN word with T = 0xE is the row that the secondary dispatch answers for its function byte (R85). -/
theorem decodeWord_regImmWord_fourteen {nn : Byte} {row : Reg → Instr}
    (dispatch : ∀ w, fieldNN w = nn → decodeE w = row (fieldX w)) (x : Reg) :
    decodeWord (regImmWord 0xE x nn) = row x := by
  have primary : decodeWord (regImmWord 0xE x nn) = decodeE (regImmWord 0xE x nn) := by
    rw [decodeWord, fieldT_regImmWord]
    rfl
  rw [primary, dispatch _ (fieldNN_regImmWord ..), fieldX_regImmWord]

theorem decodeWord_regImmWord_EX9E (x : Reg) : decodeWord (regImmWord 0xE x 0x9E) = .opEX9E x :=
  decodeWord_regImmWord_fourteen (fun w hnn => by rw [decodeE, hnn]; rfl) x

theorem decodeWord_regImmWord_EXA1 (x : Reg) : decodeWord (regImmWord 0xE x 0xA1) = .opEXA1 x :=
  decodeWord_regImmWord_fourteen (fun w hnn => by rw [decodeE, hnn]; rfl) x

theorem decodeWord_regImmWord_FX0A (x : Reg) : decodeWord (regImmWord 0xF x 0x0A) = .opFX0A x :=
  decodeWord_regImmWord_fifteen (fun w hnn => by rw [decodeF, hnn]; rfl) x

theorem decodeWord_regImmWord_FX29 (x : Reg) : decodeWord (regImmWord 0xF x 0x29) = .opFX29 x :=
  decodeWord_regImmWord_fifteen (fun w hnn => by rw [decodeF, hnn]; rfl) x

theorem decodeWord_regImmWord_FX33 (x : Reg) : decodeWord (regImmWord 0xF x 0x33) = .opFX33 x :=
  decodeWord_regImmWord_fifteen (fun w hnn => by rw [decodeF, hnn]; rfl) x

theorem decodeWord_regImmWord_FX55 (x : Reg) : decodeWord (regImmWord 0xF x 0x55) = .opFX55 x :=
  decodeWord_regImmWord_fifteen (fun w hnn => by rw [decodeF, hnn]; rfl) x

theorem decodeWord_regImmWord_FX65 (x : Reg) : decodeWord (regImmWord 0xF x 0x65) = .opFX65 x :=
  decodeWord_regImmWord_fifteen (fun w hnn => by rw [decodeF, hnn]; rfl) x

/-! ### The statements -/

/-- Settles O1: each constructor's word dispatches back to it; 0NNN by its exclusion of two words, UNMAPPED because no
row selects its word. -/
theorem encodeThenDecode : Obligations.EncodeThenDecode := by
  intro i hwf
  cases i with
  | op00E0 => rfl
  | op00EE => rfl
  | op0NNN nnn =>
    obtain ⟨hE0, hEE⟩ := (wf0NNN_iff nnn).mp hwf
    exact decodeWord_addrWord_0NNN hE0 hEE
  | op1NNN nnn => exact decodeWord_addrWord_1NNN nnn
  | op2NNN nnn => exact decodeWord_addrWord_2NNN nnn
  | op3XNN x nn => exact decodeWord_regImmWord_3XNN x nn
  | op4XNN x nn => exact decodeWord_regImmWord_4XNN x nn
  | op5XY0 x y => exact decodeWord_regRegWord_5XY0 x y
  | op6XNN x nn => exact decodeWord_regImmWord_6XNN x nn
  | op7XNN x nn => exact decodeWord_regImmWord_7XNN x nn
  | op8XY0 x y => exact decodeWord_regRegWord_8XY0 x y
  | op8XY1 x y => exact decodeWord_regRegWord_8XY1 x y
  | op8XY2 x y => exact decodeWord_regRegWord_8XY2 x y
  | op8XY3 x y => exact decodeWord_regRegWord_8XY3 x y
  | op8XY4 x y => exact decodeWord_regRegWord_8XY4 x y
  | op8XY5 x y => exact decodeWord_regRegWord_8XY5 x y
  | op8XY6 x y => exact decodeWord_regRegWord_8XY6 x y
  | op8XY7 x y => exact decodeWord_regRegWord_8XY7 x y
  | op8XYE x y => exact decodeWord_regRegWord_8XYE x y
  | op9XY0 x y => exact decodeWord_regRegWord_9XY0 x y
  | opANNN nnn => exact decodeWord_addrWord_ANNN nnn
  | opBNNN nnn => exact decodeWord_addrWord_BNNN nnn
  | opCXNN x nn => exact decodeWord_regImmWord_CXNN x nn
  | opDXYN x y n => exact decodeWord_regRegWord_DXYN x y n
  | opEX9E x => exact decodeWord_regImmWord_EX9E x
  | opEXA1 x => exact decodeWord_regImmWord_EXA1 x
  | opFX07 x => exact decodeWord_regImmWord_FX07 x
  | opFX0A x => exact decodeWord_regImmWord_FX0A x
  | opFX15 x => exact decodeWord_regImmWord_FX15 x
  | opFX18 x => exact decodeWord_regImmWord_FX18 x
  | opFX1E x => exact decodeWord_regImmWord_FX1E x
  | opFX29 x => exact decodeWord_regImmWord_FX29 x
  | opFX33 x => exact decodeWord_regImmWord_FX33 x
  | opFX55 x => exact decodeWord_regImmWord_FX55 x
  | opFX65 x => exact decodeWord_regImmWord_FX65 x
  | unmapped w => exact (decodeWord_eq_unmapped_iff w).mpr hwf

/-- Settles O2: each dispatch rebuilds the word from its fields, and an UNMAPPED word is one no row selects. -/
theorem decodeThenEncode : Obligations.DecodeThenEncode := fun w => ⟨wf_decodeWord w, encode_decodeWord w⟩

/-- Settles O3: T leaves the rows of one T, among which the secondary dispatch picks. -/
theorem decoderFollowsOpcodeMap : Obligations.DecoderFollowsOpcodeMap := decodeWord_priority

/-- Settles O4: nine fixed words. -/
theorem exampleWordsDecode : Obligations.ExampleWordsDecode := by
  unfold Obligations.ExampleWordsDecode
  decide

/-- Settles O5: two bytes are one word, whose instruction encodes back to it. -/
theorem decodeTakesTwoBytesHighFirst : Obligations.DecodeTakesTwoBytesHighFirst := by
  refine ⟨fun hi lo rest => ⟨_, rfl, encode_decodeWord _⟩, fun bs hlen => ?_⟩
  match bs, hlen with
  | [], _ => rfl
  | [_], _ => rfl

end Sys2Proof

namespace Sys2Proof.Machine

/-- The meaning of UNMAPPED is the fetch's increment alone (R115). -/
theorem exec_unmapped (w : Word) (s : State) : exec (.unmapped w) s = .next s.advance := rfl

/-- Settles O17: such a word decodes to UNMAPPED, whose meaning is the increment of PC. -/
theorem unmappedOnlyAdvancesPc : Obligations.UnmappedOnlyAdvancesPc := by
  intro w s hrows
  have hwf : wfUnmapped w = true := by simpa [wfUnmapped, OpRow.selects] using hrows
  exact ⟨(decodeWord_eq_unmapped_iff w).mpr hwf, s.advance, exec_unmapped w s, State.advance_pc s, allBut_advance [] s⟩

end Sys2Proof.Machine
end

section
/-! PROOFS. What an instruction can do, said once: it raises its own fatal condition (spec/60_exceptions.md R185) or
gives every kind of state the value that the tables of spec/10_state.md and spec/20_memory.md name. The statements about
all instructions are read off these two. -/

namespace Sys2Proof.Machine

/-! ### The fatal condition of an instruction -/

/-- The fatal condition of a data access of n bytes from I upward, if it has one (R189). -/
def dataFatal (n : Nat) (s : State) : Option Fatal :=
  if n = 0 ∨ s.i.toNat + n ≤ Config.memSize then none else some (.memRangeData (max s.i.toNat Config.memSize))

/-- The fatal condition an instruction's handler raises, if any (R185). -/
def fatalOf (i : Instr) (s : State) : Option Fatal :=
  match i with
  | .op00EE => if s.sp = 0 then some .stackUnderflow else none
  | .op2NNN _ => if s.sp = 15 then some .stackOverflow else none
  | .opDXYN _ _ n => dataFatal n.toNat s
  | .opFX33 _ => dataFatal 3 s
  | .opFX55 x => dataFatal (x.val + 1) s
  | .opFX65 x => dataFatal (x.val + 1) s
  | _ => none

/-! ### The effect of an instruction, one kind of state at a time -/

/-- The grid and the collision of a DXYN (R165). -/
def drawnBy (x y : Reg) (n : Nibble) (s : State) : Display × Bool :=
  blitRows ((s.reg x).toNat % Config.dispW) ((s.reg y).toNat % Config.dispH) (s.bytesAtI n.toNat) s.fb

/-- The general registers after an instruction that does not fault (R21). -/
def regsAfter (i : Instr) (s : State) : Vector Byte 16 :=
  match i with
  | .op6XNN x nn => (s.setReg x nn).v
  | .op7XNN x nn => (s.setReg x (s.reg x + nn)).v
  | .op8XY0 x y => (s.setReg x (s.reg y)).v
  | .op8XY1 x y => (s.setReg x (s.reg x ||| s.reg y)).v
  | .op8XY2 x y => (s.setReg x (s.reg x &&& s.reg y)).v
  | .op8XY3 x y => (s.setReg x (s.reg x ^^^ s.reg y)).v
  | .op8XY4 x y => (s.setFlagged x (carryFlag (s.reg x) (s.reg y)) (s.reg x + s.reg y)).v
  | .op8XY5 x y => (s.setFlagged x (noBorrowFlag (s.reg x) (s.reg y)) (s.reg x - s.reg y)).v
  | .op8XY6 x _ => (s.setFlagged x (shiftRightFlag (s.reg x)) (s.reg x >>> 1)).v
  | .op8XY7 x y => (s.setFlagged x (noBorrowFlag (s.reg y) (s.reg x)) (s.reg y - s.reg x)).v
  | .op8XYE x _ => (s.setFlagged x (shiftLeftFlag (s.reg x)) (s.reg x <<< 1)).v
  | .opCXNN x nn => (s.setReg x (s.randByte &&& nn)).v
  | .opDXYN x y n => (s.setReg vF (flagByte (drawnBy x y n s).2)).v
  | .opFX07 x => (s.setReg x s.dt).v
  | .opFX0A x => s.firstKey.elim s.v fun k => (s.setReg x (BitVec.ofNat 8 k.val)).v
  | .opFX65 x => (s.loadRegs x fun k => Memory.byteAt s.mem (s.ea k)).v
  | _ => s.v

/-- I after an instruction that does not fault (R25). -/
def indexAfter (i : Instr) (s : State) : Word :=
  match i with
  | .opANNN nnn => zextAddr nnn
  | .opFX1E x => s.i + zextByte (s.reg x)
  | .opFX29 x => BitVec.ofNat 16 (Config.fontBase.val + Config.fontStride * (lowDigit (s.reg x)).val)
  | _ => s.i

/-- The slots of the call stack after an instruction that does not fault (R130). -/
def stackAfter (i : Instr) (s : State) : Vector Word 16 :=
  match i with
  | .op2NNN _ => (s.setSlot (s.sp + 1).toFin (s.pc + 2)).stack
  | _ => s.stack

/-- SP after an instruction that does not fault (R30). -/
def spAfter (i : Instr) (s : State) : BitVec 4 :=
  match i with
  | .op00EE => s.sp - 1
  | .op2NNN _ => s.sp + 1
  | _ => s.sp

/-- DT after an instruction (R34). -/
def dtAfter (i : Instr) (s : State) : Byte :=
  match i with
  | .opFX15 x => s.reg x
  | _ => s.dt

/-- ST after an instruction (R35). -/
def stAfter (i : Instr) (s : State) : Byte :=
  match i with
  | .opFX18 x => s.reg x
  | _ => s.st

/-- Memory after an instruction that does not fault (R51). -/
def memAfter (i : Instr) (s : State) : Memory :=
  match i with
  | .opFX33 x => (s.storeAtI [bcdHundreds (s.reg x), bcdTens (s.reg x), bcdOnes (s.reg x)]).mem
  | .opFX55 x => (s.storeAtI (s.v.toList.take (x.val + 1))).mem
  | _ => s.mem

/-- The grid after an instruction that does not fault (R56). -/
def displayAfter (i : Instr) (s : State) : Display :=
  match i with
  | .op00E0 => clearDisplay
  | .opDXYN x y n => (drawnBy x y n s).1
  | _ => s.fb

/-- The random bytes still to come after an instruction (R62). -/
def randInAfter (i : Instr) (s : State) : List Byte :=
  match i with
  | .opCXNN _ _ => s.randIn.tail
  | _ => s.randIn

/-- The count of random draws after an instruction (R62). -/
def randDrawsAfter (i : Instr) (s : State) : Nat :=
  match i with
  | .opCXNN _ _ => s.randDraws + 1
  | _ => s.randDraws

/-- The state after an instruction that does not fault. The latch, the keys and the events are those of before. -/
def effect (i : Instr) (s : State) : State :=
  { s with
    v := regsAfter i s, i := indexAfter i s, pc := Frame.pcAfter i s, stack := stackAfter i s, sp := spAfter i s,
    dt := dtAfter i s, st := stAfter i s, mem := memAfter i s, fb := displayAfter i s, randIn := randInAfter i s,
    randDraws := randDrawsAfter i s }

/-! ### Each kind of state has its own writers -/

theorem memAfter_of_ne {i : Instr} (s : State) (h : ∀ x, i ≠ .opFX33 x ∧ i ≠ .opFX55 x) : memAfter i s = s.mem := by
  cases i with
  | opFX33 x => exact absurd rfl (h x).1
  | opFX55 x => exact absurd rfl (h x).2
  | _ => rfl

theorem displayAfter_of_ne {i : Instr} (s : State) (h : i ≠ .op00E0 ∧ ∀ x y n, i ≠ .opDXYN x y n) :
    displayAfter i s = s.fb := by
  cases i with
  | op00E0 => exact absurd rfl h.1
  | opDXYN x y n => exact absurd rfl (h.2 x y n)
  | _ => rfl

theorem indexAfter_of_ne {i : Instr} (s : State) (h : ∀ x nnn, i ≠ .opANNN nnn ∧ i ≠ .opFX1E x ∧ i ≠ .opFX29 x) :
    indexAfter i s = s.i := by
  cases i with
  | opANNN nnn => exact absurd rfl (h 0 nnn).1
  | opFX1E x => exact absurd rfl (h x 0).2.1
  | opFX29 x => exact absurd rfl (h x 0).2.2
  | _ => rfl

theorem stackAfter_of_ne {i : Instr} (s : State) (h : ∀ nnn, i ≠ .op2NNN nnn) : stackAfter i s = s.stack := by
  cases i with
  | op2NNN nnn => exact absurd rfl (h nnn)
  | _ => rfl

theorem spAfter_of_ne {i : Instr} (s : State) (h : i ≠ .op00EE ∧ ∀ nnn, i ≠ .op2NNN nnn) : spAfter i s = s.sp := by
  cases i with
  | op00EE => exact absurd rfl h.1
  | op2NNN nnn => exact absurd rfl (h.2 nnn)
  | _ => rfl

theorem dtAfter_of_ne {i : Instr} (s : State) (h : ∀ x, i ≠ .opFX15 x) : dtAfter i s = s.dt := by
  cases i with
  | opFX15 x => exact absurd rfl (h x)
  | _ => rfl

theorem stAfter_of_ne {i : Instr} (s : State) (h : ∀ x, i ≠ .opFX18 x) : stAfter i s = s.st := by
  cases i with
  | opFX18 x => exact absurd rfl (h x)
  | _ => rfl

theorem randAfter_of_ne {i : Instr} (s : State) (h : ∀ x nn, i ≠ .opCXNN x nn) :
    randInAfter i s = s.randIn ∧ randDrawsAfter i s = s.randDraws := by
  cases i with
  | opCXNN x nn => exact absurd rfl (h x nn)
  | _ => exact ⟨rfl, rfl⟩

/-! ### The state a fatal condition leaves -/

/-- The state with the latch written for a fatal condition of the step it is the start of (R190). -/
def State.raised (s : State) (f : Fatal) : State :=
  { s with faultCode := f.code, faultPc := s.pc, faultAddr := f.addr }

@[simp] theorem State.raised_faultPc (s : State) (f : Fatal) : (s.raised f).faultPc = s.pc := rfl
@[simp] theorem State.raised_faultAddr (s : State) (f : Fatal) : (s.raised f).faultAddr = f.addr := rfl

/-- Nothing but the latch is written (R193). -/
theorem allButLatch_raised (s : State) (f : Fatal) : Frame.allButLatch s (s.raised f) :=
  ⟨rfl, fun _ _ => rfl, rfl, ⟨rfl, fun _ => rfl⟩, ⟨rfl, rfl⟩, fun _ => rfl, fun _ _ => rfl, ⟨rfl, rfl, rfl⟩, rfl, rfl⟩

/-! ### An instruction raises its fatal condition or has its effect -/

/-- A fatal condition if there is one, else the effect. -/
def raiseOr (f : Option Fatal) (s done : State) : Result := f.elim (.next done) fun f => raise f s

theorem accessAtI_eq_raiseOr (n : Nat) (s done : State) : accessAtI n s done = raiseOr (dataFatal n s) s done := by
  rw [accessAtI_eq, dataFatal]
  split_ifs <;> rfl

theorem skipIf_beq (a b : Byte) (s : State) :
    s.skipIf (a == b) = { s with pc := if a = b then s.pc + 4 else s.pc + 2 } := by
  simp only [State.skipIf_eq, beq_iff_eq]

theorem skipIf_bne (a b : Byte) (s : State) :
    s.skipIf (a != b) = { s with pc := if a ≠ b then s.pc + 4 else s.pc + 2 } := by
  simp only [State.skipIf_eq, bne_iff_ne]

theorem skipIf_not (c : Bool) (s : State) :
    s.skipIf (!c) = { s with pc := if c then s.pc + 2 else s.pc + 4 } := by
  cases c with
  | false => exact State.skipIf_eq s true
  | true => exact State.skipIf_eq s false

/-- No key is pressed exactly when the key input is 0 (R60, R61). -/
theorem State.firstKey_eq_none_iff (s : State) : s.firstKey = none ↔ s.keys = 0 := by
  rw [State.firstKey_none]
  constructor
  · intro h
    refine BitVec.eq_of_getLsbD_eq fun k hk => ?_
    rw [show s.keys.getLsbD k = false from h ⟨k, hk⟩]
    exact BitVec.getLsbD_zero.symm
  · intro h k
    rw [State.keyPressed, h]
    exact BitVec.getLsbD_zero

theorem exec_opFX0A_none {x : Reg} {s : State} (h : s.firstKey = none) : exec (.opFX0A x) s = .next s := by
  show execFX0A x s = .next s
  rw [execFX0A, h]

theorem exec_opFX0A_some {x k : Reg} {s : State} (h : s.firstKey = some k) :
    exec (.opFX0A x) s = .next (s.advance.setReg x (BitVec.ofNat 8 k.val)) := by
  show execFX0A x s = _
  rw [execFX0A, h]

/-- The effect of FX0A with no key down is none at all, PC included (R173). -/
theorem effect_opFX0A_none {x : Reg} {s : State} (h : s.firstKey = none) : effect (.opFX0A x) s = s := by
  have hregs : regsAfter (.opFX0A x) s = s.v := by rw [regsAfter, h, Option.elim_none]
  have hpc : Frame.pcAfter (.opFX0A x) s = s.pc := if_pos (s.firstKey_eq_none_iff.mp h)
  rw [effect, hregs, hpc]
  rfl

theorem effect_opFX0A_some {x k : Reg} {s : State} (h : s.firstKey = some k) :
    effect (.opFX0A x) s = s.advance.setReg x (BitVec.ofNat 8 k.val) := by
  have hregs : regsAfter (.opFX0A x) s = (s.setReg x (BitVec.ofNat 8 k.val)).v := by
    rw [regsAfter, h, Option.elim_some]
  have hkeys : s.keys ≠ 0 := fun h0 => by simp [s.firstKey_eq_none_iff.mpr h0] at h
  have hpc : Frame.pcAfter (.opFX0A x) s = s.pc + 2 := if_neg hkeys
  rw [effect, hregs, hpc]
  rfl

/-- Every arm of the dispatch is the instruction's fatal condition or its effect. The arms that are not this by
unfolding are those with a check of their own and the skips, whose condition the table of PC writes as a proposition. -/
theorem exec_eq (i : Instr) (s : State) : exec i s = raiseOr (fatalOf i s) s (effect i s) := by
  cases i with
  | op00EE =>
    show (if s.sp = 0 then _ else _) = raiseOr (if s.sp = 0 then _ else _) s _
    split_ifs <;> rfl
  | op2NNN nnn =>
    show (if s.sp = 15 then _ else _) = raiseOr (if s.sp = 15 then _ else _) s _
    split_ifs <;> rfl
  | op3XNN x nn => exact congrArg Host.Outcome.next (skipIf_beq ..)
  | op4XNN x nn => exact congrArg Host.Outcome.next (skipIf_bne ..)
  | op5XY0 x y => exact congrArg Host.Outcome.next (skipIf_beq ..)
  | op9XY0 x y => exact congrArg Host.Outcome.next (skipIf_bne ..)
  | opEX9E x =>
    refine congrArg Host.Outcome.next ?_
    rw [State.skipIf_eq, State.keyPressed_lowDigit]
    rfl
  | opEXA1 x =>
    refine congrArg Host.Outcome.next ?_
    rw [skipIf_not, State.keyPressed_lowDigit]
    rfl
  | opDXYN x y n => exact accessAtI_eq_raiseOr n.toNat s _
  | opFX33 x => exact accessAtI_eq_raiseOr 3 s _
  | opFX55 x => exact accessAtI_eq_raiseOr (x.val + 1) s _
  | opFX65 x => exact accessAtI_eq_raiseOr (x.val + 1) s _
  | opFX0A x =>
    show exec (.opFX0A x) s = .next (effect (.opFX0A x) s)
    cases hk : s.firstKey with
    | none => rw [exec_opFX0A_none hk, effect_opFX0A_none hk]
    | some k => rw [exec_opFX0A_some hk, effect_opFX0A_some hk]
  | _ => rfl

/-- Without a fatal condition an instruction has its effect. -/
theorem exec_of_none {i : Instr} {s : State} (h : fatalOf i s = none) : exec i s = .next (effect i s) := by
  rw [exec_eq, h]
  rfl

/-- With a fatal condition it is raised, and nothing else happens. -/
theorem exec_of_some {i : Instr} {s : State} {f : Fatal} (h : fatalOf i s = some f) :
    exec i s = .next (s.raised f) := by
  rw [exec_eq, h]
  rfl

/-- What the state after an instruction can be. -/
theorem exec_cases {i : Instr} {s t : State} (h : exec i s = .next t) :
    (fatalOf i s = none ∧ t = effect i s) ∨ ∃ f, fatalOf i s = some f ∧ t = s.raised f := by
  cases hf : fatalOf i s with
  | none => exact .inl ⟨rfl, Host.Outcome.next.inj (h.symm.trans (exec_of_none hf))⟩
  | some f => exact .inr ⟨f, rfl, Host.Outcome.next.inj (h.symm.trans (exec_of_some hf))⟩

/-! ### The conditions of the spec's closed list -/

theorem dataFatal_of_inside {n : Nat} {s : State} (h : n = 0 ∨ s.i.toNat + n ≤ Config.memSize) :
    dataFatal n s = none := if_pos h

theorem dataFatal_of_outside {n : Nat} {s : State} (h0 : n ≠ 0) (h : Config.memSize < s.i.toNat + n) :
    dataFatal n s = some (.memRangeData (max s.i.toNat Config.memSize)) := if_neg (by omega)

theorem dataFatal_some {n : Nat} {s : State} {f : Fatal} (h : dataFatal n s = some f) :
    n ≠ 0 ∧ Config.memSize < s.i.toNat + n ∧ f = .memRangeData (max s.i.toNat Config.memSize) := by
  rw [dataFatal] at h
  split_ifs at h with hin
  exact ⟨by omega, by omega, (Option.some.inj h).symm⟩

theorem inside_of_dataFatal {n : Nat} {s : State} (h0 : n ≠ 0) (h : dataFatal n s = none) :
    s.i.toNat + n ≤ Config.memSize := by
  by_contra hout
  rw [dataFatal_of_outside h0 (by omega)] at h
  cases h

/-- The four instructions with a data access share one condition (R189). -/
theorem fatalOf_of_dataBytes {i : Instr} (s : State) (h : Frame.dataBytes i ≠ 0) :
    fatalOf i s = dataFatal (Frame.dataBytes i) s := by
  cases i with
  | opDXYN x y n => rfl
  | opFX33 x => rfl
  | opFX55 x => rfl
  | opFX65 x => rfl
  | _ => exact absurd rfl h

/-- The condition depends on SP and I alone. -/
theorem fatalOf_congr (i : Instr) {s t : State} (hsp : t.sp = s.sp) (hi : t.i = s.i) : fatalOf i t = fatalOf i s := by
  unfold fatalOf dataFatal
  rw [hsp, hi]

/-- Which conditions an instruction can meet (R185 to R187, R189). -/
theorem fatalOf_some {i : Instr} {s : State} {f : Fatal} (h : fatalOf i s = some f) :
    (∃ nnn, i = .op2NNN nnn ∧ s.sp = 15 ∧ f = .stackOverflow) ∨
    (i = .op00EE ∧ s.sp = 0 ∧ f = .stackUnderflow) ∨
    (Frame.dataBytes i ≠ 0 ∧ Config.memSize < s.i.toNat + Frame.dataBytes i ∧
      f = .memRangeData (max s.i.toNat Config.memSize)) := by
  cases i with
  | op2NNN nnn =>
    change (if s.sp = 15 then _ else _) = _ at h
    split_ifs at h with hsp
    exact .inl ⟨nnn, rfl, hsp, (Option.some.inj h).symm⟩
  | op00EE =>
    change (if s.sp = 0 then _ else _) = _ at h
    split_ifs at h with hsp
    exact .inr (.inl ⟨rfl, hsp, (Option.some.inj h).symm⟩)
  | opDXYN x y n => exact .inr (.inr (dataFatal_some h))
  | opFX33 x => exact .inr (.inr (dataFatal_some h))
  | opFX55 x => exact .inr (.inr (dataFatal_some h))
  | opFX65 x => exact .inr (.inr (dataFatal_some h))
  | _ => cases h

/-- The handler conditions of the closed list are the fatal conditions, with their codes (R185, R191). -/
theorem handlerFault_iff (i : Instr) (s : State) (code : BitVec 3) :
    Frame.handlerFault i s code ↔ ∃ f, fatalOf i s = some f ∧ f.code = code := by
  constructor
  · rintro (⟨nnn, rfl, hsp, rfl⟩ | ⟨rfl, hsp, rfl⟩ | ⟨h0, hout, rfl⟩)
    · exact ⟨.stackOverflow, if_pos hsp, rfl⟩
    · exact ⟨.stackUnderflow, if_pos hsp, rfl⟩
    · exact ⟨_, (fatalOf_of_dataBytes s h0).trans (dataFatal_of_outside h0 hout), rfl⟩
  · rintro ⟨f, hf, rfl⟩
    obtain ⟨nnn, hi, hsp, rfl⟩ | ⟨hi, hsp, rfl⟩ | ⟨h0, hout, rfl⟩ := fatalOf_some hf
    · exact .inl ⟨nnn, hi, hsp, rfl⟩
    · exact .inr (.inl ⟨hi, hsp, rfl⟩)
    · exact .inr (.inr ⟨h0, hout, rfl⟩)

/-- No handler condition holds exactly when the instruction has no fatal condition. -/
theorem forall_not_handlerFault_iff (i : Instr) (s : State) :
    (∀ code, ¬ Frame.handlerFault i s code) ↔ fatalOf i s = none := by
  constructor
  · intro h
    cases hf : fatalOf i s with
    | none => rfl
    | some f => exact absurd ((handlerFault_iff i s f.code).mpr ⟨f, hf, rfl⟩) (h f.code)
  · intro h code hc
    obtain ⟨f, hf, -⟩ := (handlerFault_iff i s code).mp hc
    rw [h] at hf
    cases hf

end Sys2Proof.Machine
end

section
/-! PROOFS. The steps and the events (spec/00_scope.md, spec/40_fetch_dispatch.md, spec/60_exceptions.md): what a
transition can do, said once, and the statements about single events that are read off it. -/

namespace Sys2Proof.Machine

/-! ### What a transition can do -/

/-- The fatal condition of a step of an engine that is not halted, if any: the fetch's before the handler's (R185). -/
def stepFatal (s : State) : Option Fatal :=
  match s.fetch with
  | .error a => some (.memRangeFetch a)
  | .ok w => fatalOf (decodeWord w) s

theorem stepFatal_of_error {s : State} {a : Nat} (h : s.fetch = .error a) :
    stepFatal s = some (.memRangeFetch a) := by
  rw [stepFatal, h]

theorem stepFatal_of_ok {s : State} {w : Word} (h : s.fetch = .ok w) : stepFatal s = fatalOf (decodeWord w) s := by
  rw [stepFatal, h]

/-- A step of a halted engine does nothing (R117). -/
theorem step_of_halted {s : State} (h : s.faultCode ≠ 0) (he : s.event = .execute) : step s = .next s.taken := by
  rw [step_of_execute he, executeEvent, if_pos (by simpa using h)]

/-- A step whose fetch succeeds runs the fetched instruction (R110, R113). -/
theorem step_of_fetch_ok {s : State} {w : Word} (h : s.faultCode = 0) (he : s.event = .execute)
    (hf : s.fetch = .ok w) : step s = exec (decodeWord w) s.taken := by
  rw [step_of_execute he, executeEvent, if_neg (by simpa using h), State.taken_fetch, hf]

/-- A step with a fatal condition raises it. -/
theorem step_of_stepFatal {s : State} {f : Fatal} (h : s.faultCode = 0) (he : s.event = .execute)
    (hf : stepFatal s = some f) : step s = .next (s.taken.raised f) := by
  cases hfetch : s.fetch with
  | error a =>
    obtain rfl : Fatal.memRangeFetch a = f := Option.some.inj ((stepFatal_of_error hfetch).symm.trans hf)
    exact step_of_fetch_error h he hfetch
  | ok w =>
    rw [stepFatal_of_ok hfetch, ← fatalOf_congr _ s.taken_sp s.taken_i] at hf
    rw [step_of_fetch_ok h he hfetch, exec_of_some hf]

/-- A step without one fetches an instruction, which has its effect. -/
theorem step_of_not_stepFatal {s : State} (h : s.faultCode = 0) (he : s.event = .execute)
    (hf : stepFatal s = none) :
    ∃ w, s.fetch = .ok w ∧ fatalOf (decodeWord w) s = none ∧ step s = .next (effect (decodeWord w) s.taken) := by
  cases hfetch : s.fetch with
  | error a =>
    rw [stepFatal_of_error hfetch] at hf
    cases hf
  | ok w =>
    rw [stepFatal_of_ok hfetch] at hf
    refine ⟨w, rfl, hf, ?_⟩
    rw [← fatalOf_congr _ s.taken_sp s.taken_i] at hf
    rw [step_of_fetch_ok h he hfetch, exec_of_none hf]

theorem step_of_tick {s : State} (he : s.event = .tick) : step s = .next (tickEvent s.taken) := by
  rw [step_eq, he]
  rfl

theorem step_of_reset {s : State} (he : s.event = .reset) : step s = .next (resetEvent s.taken) := by
  rw [step_eq, he]
  rfl

theorem step_of_keys {s : State} {levels : BitVec 16} (he : s.event = .keys levels) :
    step s = .next { s.taken with keys := levels } := by
  rw [step_eq, he]
  rfl

/-- Everything a transition can do. -/
inductive StepTo (s : State) : State → Prop where
  | reset (he : s.event = .reset) : StepTo s (resetEvent s.taken)
  | tick (he : s.event = .tick) : StepTo s (tickEvent s.taken)
  | keys (levels : BitVec 16) (he : s.event = .keys levels) : StepTo s { s.taken with keys := levels }
  | halted (he : s.event = .execute) (h : s.faultCode ≠ 0) : StepTo s s.taken
  | raised (f : Fatal) (he : s.event = .execute) (h : s.faultCode = 0) (hf : stepFatal s = some f) :
      StepTo s (s.taken.raised f)
  | ran (w : Word) (he : s.event = .execute) (h : s.faultCode = 0) (hfetch : s.fetch = .ok w)
      (hf : fatalOf (decodeWord w) s = none) : StepTo s (effect (decodeWord w) s.taken)

/-- Every transition answers a next state, one of these. -/
theorem exists_step_next (s : State) : ∃ t, step s = .next t ∧ StepTo s t := by
  cases he : s.event with
  | reset => exact ⟨_, step_of_reset he, .reset he⟩
  | tick => exact ⟨_, step_of_tick he, .tick he⟩
  | keys levels => exact ⟨_, step_of_keys he, .keys levels he⟩
  | execute =>
    by_cases h : s.faultCode = 0
    · cases hf : stepFatal s with
      | some f => exact ⟨_, step_of_stepFatal h he hf, .raised f he h hf⟩
      | none =>
        obtain ⟨w, hfetch, hnone, hs⟩ := step_of_not_stepFatal h he hf
        exact ⟨_, hs, .ran w he h hfetch hnone⟩
    · exact ⟨_, step_of_halted h he, .halted he h⟩

theorem stepTo_of_step {s t : State} (h : step s = .next t) : StepTo s t := by
  obtain ⟨u, hu, hto⟩ := exists_step_next s
  obtain rfl : u = t := Host.Outcome.next.inj (hu.symm.trans h)
  exact hto

/-! ### The statements -/

/-- Settles O12: each kind of event has its next state. -/
theorem everyTransitionAnswersNext : Obligations.EveryTransitionAnswersNext := fun s =>
  have ⟨t, ht, _⟩ := exists_step_next s
  ⟨t, ht⟩

end Sys2Proof.Machine
end

section
/-! PROOFS. The invariant (spec/10_state.md, spec/60_exceptions.md): it holds at reset and every transition keeps it. -/

namespace Sys2Proof.Machine

/-! ### Fatal conditions and the latch -/

/-- The address a memory fault names is outside memory and fits fault_addr (R188, R189). -/
def Fatal.outside : Fatal → Prop
  | .stackOverflow => True
  | .stackUnderflow => True
  | .memRangeFetch a => Config.memSize ≤ a ∧ a < 2 ^ 17
  | .memRangeData a => Config.memSize ≤ a ∧ a < 2 ^ 17

/-- A 16-bit address or MEM_SIZE, whichever is higher, is outside memory and fits fault_addr. -/
theorem max_memSize_outside (a : Word) :
    Config.memSize ≤ max a.toNat Config.memSize ∧ max a.toNat Config.memSize < 2 ^ 17 := by
  have size : Config.memSize = 4096 := rfl
  have := a.isLt
  omega

theorem memSize_le_ofNat {a : Nat} (h : Config.memSize ≤ a ∧ a < 2 ^ 17) :
    Config.memSize ≤ (BitVec.ofNat 17 a).toNat := by
  obtain ⟨hge, hlt⟩ := h
  rwa [BitVec.toNat_ofNat, Nat.mod_eq_of_lt hlt]

theorem stepFatal_outside {s : State} {f : Fatal} (h : stepFatal s = some f) : f.outside := by
  cases hfetch : s.fetch with
  | error a =>
    obtain rfl : Fatal.memRangeFetch a = f := Option.some.inj ((stepFatal_of_error hfetch).symm.trans h)
    obtain ⟨-, rfl⟩ := State.fetch_error hfetch
    exact max_memSize_outside s.pc
  | ok w =>
    rw [stepFatal_of_ok hfetch] at h
    obtain ⟨_, _, _, rfl⟩ | ⟨_, _, rfl⟩ | ⟨_, _, rfl⟩ := fatalOf_some h
    · trivial
    · trivial
    · exact max_memSize_outside s.i

/-- A stack fault records address 0, a memory fault the address outside (R186 to R189). -/
theorem Fatal.addr_of_outside {f : Fatal} (h : f.outside) :
    (f.code.toNat ≤ 2 → f.addr = 0) ∧ (3 ≤ f.code.toNat → Config.memSize ≤ f.addr.toNat) := by
  cases f with
  | stackOverflow => exact ⟨fun _ => rfl, fun h3 => absurd h3 (show ¬3 ≤ 1 by decide)⟩
  | stackUnderflow => exact ⟨fun _ => rfl, fun h3 => absurd h3 (show ¬3 ≤ 2 by decide)⟩
  | memRangeFetch a => exact ⟨fun h2 => absurd h2 (show ¬3 ≤ 2 by decide), fun _ => memSize_le_ofNat h⟩
  | memRangeData a => exact ⟨fun h2 => absurd h2 (show ¬4 ≤ 2 by decide), fun _ => memSize_le_ofNat h⟩

/-- Recording a fatal condition of the step keeps the invariant. -/
theorem State.Inv.raised {s : State} (hinv : s.Inv) {f : Fatal} (hf : f.outside) : (s.raised f).Inv where
  memory := hinv.memory
  pcBound := hinv.pcBound
  slotBound := hinv.slotBound
  slotZero := hinv.slotZero
  code := f.code_range.2
  latchClear h := absurd h f.code_range.1
  latchPc _ := rfl
  latchAddr := Fatal.addr_of_outside hf

/-! ### The effect of an instruction whose two bytes are in memory -/

theorem add_toNat_le (w : Word) (n : Nat) : (w + BitVec.ofNat 16 n).toNat ≤ w.toNat + n := by
  rw [BitVec.toNat_add, BitVec.toNat_ofNat]
  omega

/-- PC stays at most 0x10FE: a return goes to at most MEM_SIZE, a skip to at most 4098, BNNN to at most 0x10FE (R28). -/
theorem pcAfter_le {s : State} (i : Instr) (hinv : s.Inv) (hpc : s.pc.toNat + 1 < Config.memSize) :
    (Frame.pcAfter i s).toNat ≤ 0x10FE := by
  have size : Config.memSize = 4096 := rfl
  have h2 : (s.pc + 2).toNat ≤ 0x10FE := (add_toNat_le s.pc 2).trans (by omega)
  have h4 : (s.pc + 4).toNat ≤ 0x10FE := (add_toNat_le s.pc 4).trans (by omega)
  have hnnn (nnn : Addr12) : (zextAddr nnn).toNat ≤ 0x10FE := by rw [zextAddr_toNat]; omega
  have hite (p : Prop) [Decidable p] {a b : Word} (ha : a.toNat ≤ 0x10FE) (hb : b.toNat ≤ 0x10FE) :
      (if p then a else b).toNat ≤ 0x10FE := by split_ifs <;> assumption
  cases i with
  | op1NNN nnn => exact hnnn nnn
  | op2NNN nnn => exact hnnn nnn
  | opBNNN nnn =>
    have := nnn.isLt
    have := (s.reg 0).isLt
    show (zextAddr nnn + zextByte (s.reg 0)).toNat ≤ 0x10FE
    rw [zextAddr_add_zextByte_toNat]
    omega
  | op00EE => exact (hinv.slotBound _).trans (by decide)
  | op3XNN x nn => exact hite _ h4 h2
  | op4XNN x nn => exact hite _ h4 h2
  | op5XY0 x y => exact hite _ h4 h2
  | op9XY0 x y => exact hite _ h4 h2
  | opEX9E x => exact hite _ h4 h2
  | opEXA1 x => exact hite _ h2 h4
  | opFX0A x => exact hite _ hinv.pcBound h2
  | _ => exact h2

/-- Below its limit SP increments without a wrap (R130). -/
theorem sp_succ_toNat {sp : BitVec 4} (h : sp ≠ 15) : (sp + 1).toNat = sp.toNat + 1 := by
  bv_omega

/-- An instruction leaves every slot alone, but for a call, which saves pc0 + 2 above SP (R130). -/
theorem effect_slot (i : Instr) (s : State) (k : Slot) :
    (effect i s).slot k = s.slot k ∨
    ((∃ nnn, i = .op2NNN nnn) ∧ k = (s.sp + 1).toFin ∧ (effect i s).slot k = s.pc + 2) := by
  by_cases h : ∃ nnn, i = .op2NNN nnn
  · obtain ⟨nnn, rfl⟩ := h
    have hslot : (effect (.op2NNN nnn) s).slot k = if k = (s.sp + 1).toFin then s.pc + 2 else s.slot k :=
      State.setSlot_slot s (s.sp + 1).toFin k (s.pc + 2)
    by_cases hk : k = (s.sp + 1).toFin
    · exact .inr ⟨⟨nnn, rfl⟩, hk, by rw [hslot, if_pos hk]⟩
    · exact .inl (by rw [hslot, if_neg hk])
  · exact .inl (congrArg (fun stack : Vector Word 16 => stack[k]) (stackAfter_of_ne s (not_exists.mp h)))

/-- A call saves at most MEM_SIZE, the PC after the last instruction a fetch can read (R28, R130). -/
theorem effect_slot_le {s : State} (i : Instr) (hinv : s.Inv) (hpc : s.pc.toNat + 1 < Config.memSize) (k : Slot) :
    ((effect i s).slot k).toNat ≤ Config.memSize := by
  have size : Config.memSize = 4096 := rfl
  obtain h | ⟨-, -, h⟩ := effect_slot i s k
  · rw [h]
    exact hinv.slotBound k
  · rw [h]
    exact (add_toNat_le s.pc 2).trans (by omega)

/-- A call below the limit writes a slot above slot 0 (R33, R130). -/
theorem effect_slot_zero {s : State} {i : Instr} (hinv : s.Inv) (hf : fatalOf i s = none) :
    (effect i s).slot 0 = 0 := by
  obtain h | ⟨⟨nnn, rfl⟩, hk, -⟩ := effect_slot i s 0
  · exact h.trans hinv.slotZero
  · have hsp : s.sp ≠ 15 := fun h => by simp [fatalOf, h] at hf
    exact absurd ((congrArg Fin.val hk).trans (sp_succ_toNat hsp)) (Nat.succ_ne_zero _).symm

/-- A store whose range check passed stays inside memory. -/
theorem memAfter_wf {s : State} {i : Instr} (hinv : s.Inv) (hf : fatalOf i s = none) :
    Memory.wf (memAfter i s) = true := by
  cases i with
  | opFX33 x => exact State.storeAtI_wf s _ (inside_of_dataFatal (n := 3) (by decide) hf) hinv.memory
  | opFX55 x =>
    refine State.storeAtI_wf s _ ?_ hinv.memory
    rw [List.length_take, Vector.length_toList]
    have := inside_of_dataFatal (by omega) hf
    omega
  | _ => exact hinv.memory

/-- An instruction that ran keeps the invariant. -/
theorem State.Inv.effect {s : State} {i : Instr} (hinv : s.Inv) (h0 : s.faultCode = 0)
    (hpc : s.pc.toNat + 1 < Config.memSize) (hf : fatalOf i s = none) : (effect i s).Inv where
  memory := memAfter_wf hinv hf
  pcBound := pcAfter_le i hinv hpc
  slotBound := effect_slot_le i hinv hpc
  slotZero := effect_slot_zero hinv hf
  code := hinv.code
  latchClear := hinv.latchClear
  latchPc h := absurd h0 h
  latchAddr := hinv.latchAddr

/-! ### The events -/

/-- Taking an event touches nothing the invariant speaks of. -/
theorem State.Inv.taken {s : State} (hinv : s.Inv) : s.taken.Inv := by
  rw [State.taken_eq]
  exact { hinv with }

theorem State.Inv.keys {s : State} (hinv : s.Inv) (levels : BitVec 16) : { s with keys := levels }.Inv := { hinv with }

theorem State.Inv.tickEvent {s : State} (hinv : s.Inv) : (tickEvent s).Inv := { hinv with }

/-- The state after reset is right, whatever the state before but for memory, which reset leaves alone. -/
theorem State.Inv.resetEvent {s : State} (hmem : Memory.wf s.mem = true) : (resetEvent s).Inv where
  memory := hmem
  pcBound := show Config.progStart.toNat ≤ 0x10FE by decide
  slotBound k := by simp [State.slot]
  slotZero := rfl
  code := Nat.zero_le _
  latchClear _ := ⟨rfl, rfl⟩
  latchPc h := absurd rfl h
  latchAddr := ⟨fun _ => rfl, fun h => absurd h (show ¬3 ≤ 0 by decide)⟩

/-! ### The statements -/

/-- Settles O50: nothing is loaded, and the registers are those of a reset. -/
theorem invariantHoldsAtReset : Obligations.InvariantHoldsAtReset :=
  State.Inv.resetEvent (s := State.reset) Memory.wf_nil

/-- Settles O51: each thing a transition can do keeps the invariant. -/
theorem everyTransitionKeepsInvariant : Obligations.EveryTransitionKeepsInvariant := by
  intro s t hinv hstep
  cases stepTo_of_step hstep with
  | reset => exact State.Inv.resetEvent hinv.taken.memory
  | tick => exact hinv.taken.tickEvent
  | keys levels => exact hinv.taken.keys levels
  | halted => exact hinv.taken
  | raised f _ _ hf => exact hinv.taken.raised (stepFatal_outside hf)
  | ran w _ h0 hfetch hf =>
    rw [← fatalOf_congr _ s.taken_sp s.taken_i] at hf
    exact hinv.taken.effect (by simpa using h0) (by simpa using (State.fetch_ok hfetch).1) hf

end Sys2Proof.Machine
end

section
/-! PROOFS. Single steps and events (spec/00_scope.md, spec/40_fetch_dispatch.md section 1,
spec/70_reset_and_hazards.md): what each event is and what it leaves alone. -/

namespace Sys2Proof.Machine

/-! ### What the events write -/

/-- Taking an event touches nothing a halted engine keeps. -/
theorem taken_frame (s : State) :
    Frame.latch s s.taken ∧ s.taken.pc = s.pc ∧ Frame.regsBut [] s s.taken ∧ Frame.index s s.taken ∧
      Frame.callStack s s.taken ∧ Frame.memory s s.taken ∧ Frame.display s s.taken :=
  ⟨⟨s.taken_faultCode, s.taken_faultPc, s.taken_faultAddr⟩, s.taken_pc, fun r _ => s.taken_reg r, s.taken_i,
    ⟨s.taken_sp, s.taken_slot⟩, s.taken_memRead, s.taken_pixel⟩

/-- Any number of ticks writes the timers and nothing else. -/
theorem iterate_tickEvent_eq (n : Nat) (s : State) :
    tickEvent^[n] s = { s with dt := countDown^[n] s.dt, st := countDown^[n] s.st } := by
  induction n generalizing s with
  | zero => rfl
  | succ n ih => rw [Function.iterate_succ_apply, ih]; rfl

/-- A timer counts down by one, not below 0 (R34, R35). -/
theorem countDown_toNat (b : Byte) : (countDown b).toNat = b.toNat - 1 := by
  rw [countDown]
  split_ifs with h
  · rw [h]
    rfl
  · bv_omega

theorem iterate_countDown_toNat (n : Nat) (b : Byte) : (countDown^[n] b).toNat = b.toNat - n := by
  induction n generalizing b with
  | zero => rfl
  | succ n ih => rw [Function.iterate_succ_apply, ih, countDown_toNat]; omega

/-! ### A jump to itself -/

theorem exec_op1NNN_self {nnn : Addr12} {s : State} (h : s.pc = zextAddr nnn) : exec (.op1NNN nnn) s = .next s := by
  rw [exec_op1NNN, ← h, State.jump_self]

/-- At a jump to itself a step is the taking of its event (R129). -/
theorem step_of_atSelfJump {s : State} (h : s.AtSelfJump) (h0 : s.faultCode = 0) (he : s.event = .execute) :
    step s = .next s.taken := by
  obtain ⟨nnn, hfetch, hpc⟩ := h
  rw [step_of_fetch_ok h0 he hfetch, encodeThenDecode _ rfl, exec_op1NNN_self (s.taken_pc.trans hpc)]

/-- Whether PC is at a jump to itself is decided by PC and memory. -/
theorem State.AtSelfJump.taken {s : State} (h : s.AtSelfJump) : s.taken.AtSelfJump := by
  obtain ⟨nnn, hfetch, hpc⟩ := h
  exact ⟨nnn, s.taken_fetch.trans hfetch, s.taken_pc.trans hpc⟩

/-! ### The statements -/

/-- Settles O59: the three sources of an event, and the four kinds. -/
theorem eventsComeInOrder : Obligations.EventsComeInOrder := fun _ =>
  ⟨fun _ _ h => State.event_of_cons h, fun h hs => State.event_of_steps h hs, fun _ h hs => State.event_of_free h hs,
    step_of_execute, step_of_tick, step_of_reset, fun _ => step_of_keys⟩

/-- Settles O7: the two bytes are the word fetched, and the events taken are those of the three schedules. -/
theorem stepRunsDecodedInstruction : Obligations.StepRunsDecodedInstruction := by
  intro s hi lo i h0 hhi hlo hdecode _
  obtain rfl : decodeWord (hi ++ lo) = i := (Prod.mk.inj (Except.ok.inj hdecode)).1
  have run (he : s.event = .execute) : step s = exec (decodeWord (hi ++ lo)) s.taken :=
    step_of_fetch_ok h0 he (State.fetch_of_memRead hhi hlo)
  refine ⟨run, fun hr hs => ?_, fun rest hr => ?_⟩
  · obtain ⟨he, htaken⟩ := State.event_of_steps hr hs
    rw [run he, htaken]
  · obtain ⟨he, htaken⟩ := State.event_of_cons hr
    rw [run he, htaken]

/-- Settles O8: the placed word is the one fetched, with no fault recorded and a step as the next event. -/
theorem placedWordRunsNext : Obligations.PlacedWordRunsNext := by
  intro s w
  have hw : s.withFetchWord 16 w.toNat = s.placeWord w := by
    rw [State.withFetchWord, Nat.mod_eq_of_lt w.isLt, BitVec.ofNat_toNat, BitVec.setWidth_eq]
  rw [hw, step_of_fetch_ok rfl rfl (s.placeWord_fetch w)]
  rfl

/-- Settles O10: a halted engine's step is the taking of its event. -/
theorem haltedEngineDoesNothing : Obligations.HaltedEngineDoesNothing := by
  intro s h
  refine ⟨step_of_halted h, fun hr hs => ?_, fun rest hr => ?_⟩
  · obtain ⟨he, htaken⟩ := State.event_of_steps hr hs
    rw [step_of_halted h he, htaken]
  · obtain ⟨he, htaken⟩ := State.event_of_cons hr
    rw [step_of_halted h he, htaken]

/-- Settles O11: of what a transition can do, a halted engine is left with the reset, which clears the latch, and with
three that write neither latch nor program state. -/
theorem onlyResetLeavesTheHalt : Obligations.OnlyResetLeavesTheHalt := by
  intro s t h hstep
  cases stepTo_of_step hstep with
  | reset he => exact ⟨fun _ => ⟨rfl, rfl, rfl⟩, fun hne => absurd he hne⟩
  | tick he => exact ⟨fun hr => Request.noConfusion (he.symm.trans hr), fun _ => taken_frame s⟩
  | keys levels he => exact ⟨fun hr => Request.noConfusion (he.symm.trans hr), fun _ => taken_frame s⟩
  | halted he => exact ⟨fun hr => Request.noConfusion (he.symm.trans hr), fun _ => taken_frame s⟩
  | raised _ _ h0 => exact absurd h0 h
  | ran _ _ h0 => exact absurd h0 h

/-- Settles O47: each tick takes one from each timer that is not 0. -/
theorem ticksCountDownToZero : Obligations.TicksCountDownToZero := by
  refine ⟨fun _ => step_of_tick, fun n s => ?_⟩
  rw [iterate_tickEvent_eq]
  exact ⟨iterate_countDown_toNat .., iterate_countDown_toNat .., iterate_countDown_toNat .., rfl, fun _ _ => rfl, rfl,
    ⟨rfl, fun _ => rfl⟩, ⟨rfl, rfl, rfl⟩, fun _ => rfl, fun _ _ => rfl, ⟨rfl, rfl, rfl⟩, rfl, rfl⟩

/-- Settles O48: the reset event writes R39's values into the state with the event taken. -/
theorem resetReinitialisesTheEngine : Obligations.ResetReinitialisesTheEngine := by
  intro s he
  exact ⟨_, step_of_reset he, fun r => by simp [State.reg], rfl, rfl, fun k => by simp [State.slot], rfl, rfl, rfl,
    rfl, rfl, rfl, rfl, rfl, s.taken_memRead, s.taken_pixel, ⟨s.taken_keys, s.taken_randIn, s.taken_randDraws⟩, rfl,
    rfl⟩

/-- Settles O49: the event writes the levels into the state with the event taken. -/
theorem keyChangeSetsLevelsOnly : Obligations.KeyChangeSetsLevelsOnly := by
  intro s levels he
  exact ⟨_, step_of_keys he, rfl, s.taken_pc, fun r _ => s.taken_reg r, s.taken_i, ⟨s.taken_sp, s.taken_slot⟩,
    ⟨s.taken_dt, s.taken_st⟩, ⟨s.taken_faultCode, s.taken_faultPc, s.taken_faultAddr⟩, s.taken_memRead, s.taken_pixel,
    s.taken_randIn, s.taken_randDraws, rfl, rfl⟩

/-- Settles O58: a step is the taking of its event, and the other events but reset touch neither PC nor memory. -/
theorem selfJumpIsARestingState : Obligations.SelfJumpIsARestingState := by
  intro s h h0
  have h0' : s.taken.faultCode = 0 := s.taken_faultCode.trans h0
  refine ⟨step_of_atSelfJump h h0, fun hr hs => ?_, fun hne => ?_⟩
  · obtain ⟨he, htaken⟩ := State.event_of_steps hr hs
    rw [step_of_atSelfJump h h0 he, htaken]
  · cases he : s.event with
    | reset => exact absurd he hne
    | execute => exact ⟨_, step_of_atSelfJump h h0 he, h.taken, s.taken_pc, h0'⟩
    | tick => exact ⟨_, step_of_tick he, h.taken, s.taken_pc, h0'⟩
    | keys levels => exact ⟨_, step_of_keys he, h.taken, s.taken_pc, h0'⟩

end Sys2Proof.Machine
end

section
/-! PROOFS. Fatal conditions (spec/60_exceptions.md): when a step records one, which, and what it leaves alone. -/

namespace Sys2Proof.Machine

/-! ### A step of an engine that is not halted -/

/-- It raises its fatal condition, or the fetched instruction has its effect. -/
theorem step_execute_cases {s t : State} (h0 : s.faultCode = 0) (he : s.event = .execute) (hstep : step s = .next t) :
    (∃ f, stepFatal s = some f ∧ t = s.taken.raised f) ∨
    (∃ w, s.fetch = .ok w ∧ fatalOf (decodeWord w) s = none ∧ t = effect (decodeWord w) s.taken) := by
  cases hf : stepFatal s with
  | some f => exact .inl ⟨f, rfl, Host.Outcome.next.inj (hstep.symm.trans (step_of_stepFatal h0 he hf))⟩
  | none =>
    obtain ⟨w, hfetch, hnone, hs⟩ := step_of_not_stepFatal h0 he hf
    exact .inr ⟨w, hfetch, hnone, Host.Outcome.next.inj (hstep.symm.trans hs)⟩

/-- An instruction that has its effect records no fault. -/
theorem effect_faultCode (i : Instr) (s : State) : (effect i s).faultCode = s.faultCode := rfl

/-- A step that records a fault raised its fatal condition. -/
theorem step_faulted {s t : State} (h0 : s.faultCode = 0) (he : s.event = .execute) (hstep : step s = .next t)
    (ht : t.faultCode ≠ 0) : ∃ f, stepFatal s = some f ∧ t = s.taken.raised f := by
  obtain h | ⟨w, _, _, rfl⟩ := step_execute_cases h0 he hstep
  · exact h
  · exact absurd ((effect_faultCode _ _).trans (s.taken_faultCode.trans h0)) ht

/-- A step at a PC of 4095 or more raises the fetch's condition (R188). -/
theorem step_of_pc_outside {s : State} (h0 : s.faultCode = 0) (he : s.event = .execute) (hpc : 4095 ≤ s.pc.toNat) :
    step s = .next (s.taken.raised (.memRangeFetch (max s.pc.toNat Config.memSize))) :=
  step_of_fetch_error h0 he (State.fetch_outside (show 4096 ≤ s.pc.toNat + 1 by omega))

/-- What a memory fault records is the higher of the lowest address accessed and MEM_SIZE, unnarrowed (R188, R189). -/
theorem ofNat_max_toNat (a : Word) :
    (BitVec.ofNat 17 (max a.toNat Config.memSize)).toNat = max a.toNat Config.memSize := by
  rw [BitVec.toNat_ofNat, Nat.mod_eq_of_lt (max_memSize_outside a).2]

/-! ### The status -/

theorem State.status_eq_ok_iff (s : State) : s.status = .ok ↔ s.faultCode = 0 := by
  by_cases h : s.faultCode = 0
  · rw [State.status, if_pos h]
    exact iff_of_true rfl h
  · rw [State.status, if_neg h]
    exact iff_of_false Status.noConfusion h

theorem State.status_of_faulted {s : State} (h : s.faultCode ≠ 0) :
    s.status = .faulted s.faultCode s.faultPc s.faultAddr := by
  rw [State.status, if_neg h]

/-! ### The statements -/

/-- Settles O9: the fetch fails, and its condition writes the latch alone. -/
theorem fetchOutsideMemoryIsFatal : Obligations.FetchOutsideMemoryIsFatal := by
  intro s h0 he hpc
  refine ⟨_, step_of_pc_outside h0 he hpc, rfl, s.taken_pc, ?_, allButLatch_raised ..⟩
  rw [State.raised_faultAddr, Fatal.addr, ofNat_max_toNat, max_def, Config.memSize]
  split_ifs <;> omega

/-- Settles O13: the condition raised is the fetch's or, when the fetch succeeds, the handler's. -/
theorem faultsAreTheClosedList : Obligations.FaultsAreTheClosedList := by
  intro s t h0 he hstep ht
  obtain ⟨f, hf, rfl⟩ := step_faulted h0 he hstep ht
  cases hfetch : s.fetch with
  | error a =>
    obtain rfl : Fatal.memRangeFetch a = f := Option.some.inj ((stepFatal_of_error hfetch).symm.trans hf)
    have hpc : 4096 ≤ s.pc.toNat + 1 := (State.fetch_error hfetch).1
    exact .inl ⟨by omega, rfl⟩
  | ok w => exact .inr ⟨w, rfl, (handlerFault_iff ..).mpr ⟨f, (stepFatal_of_ok hfetch).symm.trans hf, rfl⟩⟩

/-- Settles O14: each condition is raised, which records its code and pc0. -/
theorem listedConditionsDoFault : Obligations.ListedConditionsDoFault := by
  refine ⟨fun i s t code hc hexec => ?_, fun s t h0 he hpc hstep => ?_⟩
  · obtain ⟨f, hf, rfl⟩ := (handlerFault_iff i s code).mp hc
    obtain rfl : t = s.raised f := Host.Outcome.next.inj (hexec.symm.trans (exec_of_some hf))
    exact ⟨rfl, rfl⟩
  · obtain rfl := Host.Outcome.next.inj (hstep.symm.trans (step_of_pc_outside h0 he hpc))
    exact ⟨rfl, s.taken_pc⟩

/-- Settles O15: what is raised writes the latch alone, fault_pc with the PC of before. -/
theorem faultsArePrecise : Obligations.FaultsArePrecise := by
  intro s t h0 he hstep ht
  obtain ⟨f, -, rfl⟩ := step_faulted h0 he hstep ht
  exact ⟨s.taken_pc, allButLatch_raised ..⟩

/-- Settles O22: SP at its limit is the fatal condition. -/
theorem stackLimitsAreFatal : Obligations.StackLimitsAreFatal :=
  ⟨fun _ s hsp => ⟨_, exec_of_some (if_pos hsp), rfl, rfl, rfl, allButLatch_raised s .stackOverflow⟩,
    fun s hsp => ⟨_, exec_of_some (if_pos hsp), rfl, rfl, rfl, allButLatch_raised s .stackUnderflow⟩⟩

/-- Settles O41: a last byte outside memory is the fatal condition, at the lowest address outside. -/
theorem dataAccessOutsideMemoryIsFatal : Obligations.DataAccessOutsideMemoryIsFatal := by
  intro i s h0 hout
  have hf := (fatalOf_of_dataBytes s h0).trans (dataFatal_of_outside h0 hout)
  exact ⟨_, exec_of_some hf, rfl, rfl, ofNat_max_toNat s.i, allButLatch_raised ..⟩

/-- Settles O60: the status is read off the latch, which a step writes exactly when it has a fatal condition. -/
theorem statusReportsTheStep : Obligations.StatusReportsTheStep := by
  refine ⟨fun s t he hstep => ⟨fun h0 => ⟨?_, fun hne => ?_⟩, fun h => ?_⟩, fun i s h0 hi => ?_⟩
  · obtain ⟨f, hf, rfl⟩ | ⟨w, hfetch, hnone, rfl⟩ := step_execute_cases h0 he hstep
    · refine iff_of_false (fun h => f.code_range.1 ((State.status_eq_ok_iff _).mp h)) ?_
      rintro ⟨w, hfetch, hw⟩
      rw [stepFatal_of_ok hfetch, (forall_not_handlerFault_iff ..).mp hw] at hf
      cases hf
    · refine iff_of_true ((State.status_eq_ok_iff _).mpr (s.taken_faultCode.trans h0)) ?_
      exact ⟨w, hfetch, (forall_not_handlerFault_iff ..).mpr hnone⟩
  · have ht : t.faultCode ≠ 0 := fun h => hne ((State.status_eq_ok_iff t).mpr h)
    obtain ⟨f, -, rfl⟩ := step_faulted h0 he hstep ht
    refine ⟨ht, ?_⟩
    rw [State.status_of_faulted ht, State.raised_faultPc, s.taken_pc]
  · obtain rfl : t = s.taken := Host.Outcome.next.inj (hstep.symm.trans (step_of_halted h he))
    rw [State.status_of_faulted (by simpa using h), s.taken_faultCode, s.taken_faultPc, s.taken_faultAddr]
  · have hf : fatalOf i s = none := by
      obtain ⟨nnn, rfl⟩ | ⟨w, rfl⟩ | ⟨x, rfl⟩ := hi <;> rfl
    exact ⟨_, exec_of_none hf, (State.status_eq_ok_iff _).mpr h0⟩

end Sys2Proof.Machine
end

section
/-! PROOFS. The whole machine (spec/10_state.md, spec/20_memory.md): which instruction writes which state, PC after
each, and what no instruction reads. -/

namespace Sys2Proof.Machine

/-! ### The registers an instruction may write -/

theorem setReg_reg_of_not_mem {s : State} {x r : Reg} {b : Byte} (h : r ∉ [x]) : (s.setReg x b).reg r = s.reg r := by
  rw [State.setReg_reg, if_neg (by simpa using h)]

theorem setFlagged_reg_of_not_mem {s : State} {x r : Reg} {f b : Byte} (h : r ∉ [vF, x]) :
    (s.setFlagged x f b).reg r = s.reg r := by
  obtain ⟨hF, hx⟩ : r ≠ vF ∧ r ≠ x := by simpa using h
  rw [State.setFlagged_reg, if_neg hx, if_neg hF]

theorem loadRegs_reg_of_not_mem {s : State} {x r : Reg} {f : Nat → Byte}
    (h : r ∉ (List.finRange 16).filter fun r => r ≤ x) : (s.loadRegs x f).reg r = s.reg r := by
  rw [State.loadRegs_reg, if_neg (by simpa using h)]

/-- Each row of the table is what the instruction's register write leaves out (R21). -/
theorem effect_reg_of_not_mem (i : Instr) (s : State) (r : Reg) (h : r ∉ Frame.destinations i) :
    (effect i s).reg r = s.reg r := by
  show (regsAfter i s)[r] = s.reg r
  cases i with
  | op6XNN x nn => exact setReg_reg_of_not_mem h
  | op7XNN x nn => exact setReg_reg_of_not_mem h
  | op8XY0 x y => exact setReg_reg_of_not_mem h
  | op8XY1 x y => exact setReg_reg_of_not_mem h
  | op8XY2 x y => exact setReg_reg_of_not_mem h
  | op8XY3 x y => exact setReg_reg_of_not_mem h
  | op8XY4 x y => exact setFlagged_reg_of_not_mem h
  | op8XY5 x y => exact setFlagged_reg_of_not_mem h
  | op8XY6 x y => exact setFlagged_reg_of_not_mem h
  | op8XY7 x y => exact setFlagged_reg_of_not_mem h
  | op8XYE x y => exact setFlagged_reg_of_not_mem h
  | opCXNN x nn => exact setReg_reg_of_not_mem h
  | opDXYN x y n => exact setReg_reg_of_not_mem h
  | opFX07 x => exact setReg_reg_of_not_mem h
  | opFX0A x =>
    cases hk : s.firstKey with
    | none => rw [regsAfter, hk, Option.elim_none]; rfl
    | some k => rw [regsAfter, hk, Option.elim_some]; exact setReg_reg_of_not_mem h
  | opFX65 x => exact loadRegs_reg_of_not_mem h
  | _ => rfl

/-! ### What no instruction reads -/

/-- The effects of one instruction on two states that differ in ST alone differ in ST alone (R35). -/
theorem effect_with_st (i : Instr) (s : State) (b : Byte) :
    effect i { s with st := b } = { effect i s with st := stAfter i { s with st := b } } := by
  cases i with
  | _ => rfl

theorem effect_with_latch (i : Instr) (s : State) (c : BitVec 3) (p : Word) (a : BitVec 17) :
    effect i { s with faultCode := c, faultPc := p, faultAddr := a } =
      { effect i s with faultCode := c, faultPc := p, faultAddr := a } := by
  cases i with
  | _ => rfl

theorem effect_with_keys {i : Instr} (s : State) (levels : BitVec 16)
    (h : ∀ x, i ≠ .opEX9E x ∧ i ≠ .opEXA1 x ∧ i ≠ .opFX0A x) :
    effect i { s with keys := levels } = { effect i s with keys := levels } := by
  cases i with
  | opEX9E x => exact absurd rfl (h x).1
  | opEXA1 x => exact absurd rfl (h x).2.1
  | opFX0A x => exact absurd rfl (h x).2.2
  | _ => rfl

theorem taken_with_st (s : State) (b : Byte) : { s with st := b }.taken = { s.taken with st := b } := by
  obtain ⟨_, _, _, _, _, _, _, _, _, _, _, _, _, _, _, requests, schedule⟩ := s
  cases requests with
  | cons r rest => rfl
  | nil => cases schedule <;> rfl

theorem stepFatal_with_st (s : State) (b : Byte) : stepFatal { s with st := b } = stepFatal s := by
  cases hfetch : s.fetch with
  | error a => rw [stepFatal_of_error hfetch, stepFatal_of_error (s := { s with st := b }) hfetch]
  | ok w =>
    rw [stepFatal_of_ok hfetch, stepFatal_of_ok (s := { s with st := b }) hfetch]
    exact fatalOf_congr _ rfl rfl

/-! ### The statements -/

/-- Settles O52: a fault writes no register, an effect those of its row. -/
theorem onlyDestinationRegistersChange : Obligations.OnlyDestinationRegistersChange := by
  intro i s t hexec r hr
  obtain ⟨-, rfl⟩ | ⟨f, -, rfl⟩ := exec_cases hexec
  · exact effect_reg_of_not_mem i s r hr
  · rfl

/-- Settles O53: an instruction that raises records a fault; any other has its effect, whose PC is the table's. -/
theorem pcAfterEachInstruction : Obligations.PcAfterEachInstruction := by
  intro i s t _ hexec ht
  obtain ⟨-, rfl⟩ | ⟨f, -, rfl⟩ := exec_cases hexec
  · rfl
  · exact absurd ht f.code_range.1

/-- Settles O54: a fault writes the latch alone, an effect each kind of state by its own writers. -/
theorem eachStateHasItsOwnWriters : Obligations.EachStateHasItsOwnWriters := by
  intro i s t hexec
  obtain ⟨-, rfl⟩ | ⟨f, hf, rfl⟩ := exec_cases hexec
  · refine ⟨fun h a => ?_, fun h x y => ?_, indexAfter_of_ne s, fun h => ⟨spAfter_of_ne s h, fun k => ?_⟩,
      dtAfter_of_ne s, stAfter_of_ne s, randAfter_of_ne s, fun _ => ⟨rfl, rfl, rfl⟩, rfl, rfl, rfl⟩
    · exact congrArg (fun m => if a < Config.memSize then some (Memory.byteAt m a) else none) (memAfter_of_ne s h)
    · exact congrArg (fun fb => Display.pixel fb x y) (displayAfter_of_ne s h)
    · exact congrArg (fun stack : Vector Word 16 => stack[k]) (stackAfter_of_ne s h.2)
  · obtain ⟨-, -, hindex, hstack, ⟨hdt, hst⟩, hmemory, hdisplay, ⟨hkeys, hrand⟩, hpending⟩ := allButLatch_raised s f
    have hlatch (h : ∀ code, ¬ Frame.handlerFault i s code) : Frame.latch s (s.raised f) := 
      absurd ((forall_not_handlerFault_iff i s).mp h) (by simp [hf])
    exact ⟨fun _ => hmemory, fun _ => hdisplay, fun _ => hindex, fun _ => hstack, fun _ => hdt, fun _ => hst,
      fun _ => hrand, hlatch, hkeys, hpending⟩

/-- Settles O55: every event and every instruction gives states that agree but for ST. -/
theorem soundTimerInfluencesNothing : Obligations.SoundTimerInfluencesNothing := by
  intro s b
  have htaken := taken_with_st s b
  cases he : s.event with
  | reset => exact ⟨_, _, step_of_reset he, step_of_reset he, by rw [htaken]; rfl⟩
  | tick => exact ⟨_, _, step_of_tick he, step_of_tick he, by rw [htaken]; rfl⟩
  | keys levels => exact ⟨_, _, step_of_keys he, step_of_keys he, by rw [htaken]⟩
  | execute =>
    by_cases h0 : s.faultCode = 0
    · cases hf : stepFatal s with
      | some f =>
        have hf' := (stepFatal_with_st s b).trans hf
        exact ⟨_, _, step_of_stepFatal h0 he hf, step_of_stepFatal h0 he hf', by rw [htaken]; rfl⟩
      | none =>
        obtain ⟨w, hfetch, hnone, hstep⟩ := step_of_not_stepFatal h0 he hf
        obtain ⟨w', hfetch', -, hstep'⟩ :=
          step_of_not_stepFatal (s := { s with st := b }) h0 he ((stepFatal_with_st s b).trans hf)
        obtain rfl : w = w' := Except.ok.inj (hfetch.symm.trans hfetch')
        exact ⟨_, _, hstep, hstep', by rw [htaken, effect_with_st]⟩
    · exact ⟨_, _, step_of_halted h0 he, step_of_halted h0 he, by rw [htaken]⟩

/-- Settles O56: neither the conditions nor the effects read the latch. -/
theorem latchIsReadByNoInstruction : Obligations.LatchIsReadByNoInstruction := by
  intro i s c p a
  have same : fatalOf i { s with faultCode := c, faultPc := p, faultAddr := a } = fatalOf i s := fatalOf_congr i rfl rfl
  cases hf : fatalOf i s with
  | none => exact ⟨_, _, exec_of_none hf, exec_of_none (same.trans hf), effect_with_latch i s c p a⟩
  | some f => exact ⟨_, _, exec_of_some hf, exec_of_some (same.trans hf), rfl⟩

/-- Settles O57: no condition reads the keys, and of the effects only those of the three instructions do. -/
theorem keysAreReadByThreeInstructions : Obligations.KeysAreReadByThreeInstructions := by
  intro i s levels h
  have same : fatalOf i { s with keys := levels } = fatalOf i s := fatalOf_congr i rfl rfl
  cases hf : fatalOf i s with
  | none => exact ⟨_, exec_of_none hf, by rw [exec_of_none (same.trans hf), effect_with_keys s levels h]⟩
  | some f => exact ⟨_, exec_of_some hf, exec_of_some (same.trans hf)⟩

end Sys2Proof.Machine
end

section
/-! PROOFS. Calls, key skips and the instructions that write a flag or a random byte (spec/41_control_flow.md,
spec/42_register_arithmetic.md). -/

namespace Sys2Proof.Machine

/-! ### Call and return -/

/-- A call below the limit: the advanced PC goes to the slot above SP (R130). -/
theorem exec_op2NNN {s : State} (nnn : Addr12) (hsp : s.sp ≠ 15) :
    exec (.op2NNN nnn) s =
      .next { s with pc := zextAddr nnn, stack := s.stack.set (s.sp + 1).toFin (s.pc + 2), sp := s.sp + 1 } :=
  exec_of_none (if_neg hsp)

/-- A return above the limit (R128). -/
theorem exec_op00EE {s : State} (hsp : s.sp ≠ 0) :
    exec .op00EE s = .next { s with pc := s.slot s.sp.toFin, sp := s.sp - 1 } :=
  exec_of_none (if_neg hsp)

/-- Writing the stack, SP and PC leaves everything else as it was. -/
theorem allButStack_set (s : State) (stack : Vector Word 16) (sp : BitVec 4) (pc : Word) :
    Frame.allButStack s { s with pc := pc, stack := stack, sp := sp } :=
  ⟨fun _ _ => rfl, rfl, ⟨rfl, rfl⟩, ⟨rfl, rfl, rfl⟩, fun _ => rfl, fun _ _ => rfl, ⟨rfl, rfl, rfl⟩, rfl, rfl⟩

/-- Above its limit SP decrements without a wrap (R128). -/
theorem sp_pred_toNat {sp : BitVec 4} (h : sp ≠ 0) : (sp - 1).toNat + 1 = sp.toNat := by
  bv_omega

/-! ### Key skips -/

theorem exec_opEX9E (x : Reg) (s : State) :
    exec (.opEX9E x) s = .next (s.skipIf (s.keys.getLsbD ((s.reg x).toNat % 16))) := by
  rw [← State.keyPressed_lowDigit]
  rfl

theorem exec_opEXA1 (x : Reg) (s : State) :
    exec (.opEXA1 x) s = .next (s.skipIf (!s.keys.getLsbD ((s.reg x).toNat % 16))) := by
  rw [← State.keyPressed_lowDigit]
  rfl

/-! ### Flags -/

/-- The result of a flag-setting instruction is what VX holds, VF included (R141). -/
theorem setFlagged_reg_same (s : State) (x : Reg) (f b : Byte) : (s.setFlagged x f b).reg x = b := by
  rw [State.setFlagged_reg, if_pos rfl]

/-- The flag is what VF holds, unless VF is VX (R141). -/
theorem setFlagged_reg_vF {s : State} {x : Reg} (f b : Byte) (hx : x ≠ vF) : (s.setFlagged x f b).reg vF = f := by
  rw [State.setFlagged_reg, if_neg hx.symm, if_pos rfl]

/-- The two writes after the fetch's increment leave everything but VF, VX and PC as it was. -/
theorem allBut_advance_setFlagged (x : Reg) (f b : Byte) (s : State) :
    Frame.allBut [vF, x] s (s.advance.setFlagged x f b) := by
  obtain ⟨_, others⟩ := allBut_advance [vF, x] s
  exact ⟨fun r hr => setFlagged_reg_of_not_mem hr, others⟩

theorem exec_op8XY4 (x y : Reg) (s : State) :
    exec (.op8XY4 x y) s =
      .next (s.advance.setFlagged x (carryFlag (s.reg x) (s.reg y)) (s.reg x + s.reg y)) := rfl

theorem exec_op8XY5 (x y : Reg) (s : State) :
    exec (.op8XY5 x y) s =
      .next (s.advance.setFlagged x (noBorrowFlag (s.reg x) (s.reg y)) (s.reg x - s.reg y)) := rfl

theorem exec_op8XY6 (x y : Reg) (s : State) :
    exec (.op8XY6 x y) s = .next (s.advance.setFlagged x (shiftRightFlag (s.reg x)) (s.reg x >>> 1)) := rfl

theorem exec_op8XY7 (x y : Reg) (s : State) :
    exec (.op8XY7 x y) s =
      .next (s.advance.setFlagged x (noBorrowFlag (s.reg y) (s.reg x)) (s.reg y - s.reg x)) := rfl

theorem exec_op8XYE (x y : Reg) (s : State) :
    exec (.op8XYE x y) s = .next (s.advance.setFlagged x (shiftLeftFlag (s.reg x)) (s.reg x <<< 1)) := rfl

theorem carryFlag_eq (a b : Byte) : carryFlag a b = if 255 < a.toNat + b.toNat then 1 else 0 := by
  simp only [carryFlag, flagByte, decide_eq_true_eq, gt_iff_lt]

theorem noBorrowFlag_eq (a b : Byte) : noBorrowFlag a b = if b.toNat ≤ a.toNat then 1 else 0 := by
  simp only [noBorrowFlag, flagByte, decide_eq_true_eq, ge_iff_le]

/-- A byte difference is the integer difference modulo 256 (R140). -/
theorem sub_byte_toNat (a b : Byte) : (a - b).toNat = (a.toNat + 256 - b.toNat) % 256 := by
  bv_omega

theorem shiftRightFlag_toNat (a : Byte) : (shiftRightFlag a).toNat = a.toNat % 2 := by
  rw [shiftRightFlag, BitVec.toNat_and]
  exact Nat.and_one_is_mod _

theorem shiftLeftFlag_toNat (a : Byte) : (shiftLeftFlag a).toNat = a.toNat / 128 := by
  revert a
  decide

theorem shiftRight_byte_toNat (a : Byte) : (a >>> 1).toNat = a.toNat / 2 := by
  rw [BitVec.toNat_ushiftRight, Nat.shiftRight_eq_div_pow]

theorem shiftLeft_byte_toNat (a : Byte) : (a <<< 1).toNat = 2 * a.toNat % 256 := by
  rw [BitVec.toNat_shiftLeft, Nat.shiftLeft_eq, Nat.mul_comm]

/-! ### The random byte -/

theorem exec_opCXNN (x : Reg) (nn : Byte) (s : State) :
    exec (.opCXNN x nn) s = .next (s.advance.countDraw.setReg x (s.randByte &&& nn)) := rfl

/-- With no byte supplied the draw is free (R62, log 7). -/
theorem State.randByte_nil {s : State} (h : s.randIn = []) : s.randByte = Config.freeRandByte s.randDraws := by
  simp only [State.randByte, h]

/-! ### The statements -/

/-- Settles O20: below the limit SP + 1 does not wrap, and names the slot written. -/
theorem callPushesReturnAddress : Obligations.CallPushesReturnAddress := by
  intro nnn s hsp
  refine ⟨decodeWord_addrWord_2NNN nnn, _, exec_op2NNN nnn hsp, zextAddr_toNat nnn, sp_succ_toNat hsp, ?_,
    fun k hk => ?_, allButStack_set ..⟩
  · exact (State.setSlot_slot s ..).trans (if_pos rfl)
  · exact (State.setSlot_slot s ..).trans (if_neg hk)

/-- Settles O21: above the limit SP - 1 does not wrap, and no slot is written. -/
theorem returnPopsStack : Obligations.ReturnPopsStack := fun s hsp =>
  ⟨rfl, _, exec_op00EE hsp, rfl, sp_pred_toNat hsp, fun _ => rfl, allButStack_set s s.stack _ _⟩

/-- Settles O23: the return reads the slot the call wrote, and SP + 1 - 1 is SP. -/
theorem callThenReturnResumes : Obligations.CallThenReturnResumes := by
  intro nnn s hsp
  have hsp' : s.sp + 1 ≠ 0 := fun h => by
    have := sp_succ_toNat hsp
    rw [h] at this
    cases this
  refine ⟨_, _, exec_op2NNN nnn hsp, exec_op00EE hsp', ?_, BitVec.add_sub_cancel .., fun k hk => ?_, allButStack_set ..⟩
  · exact (State.setSlot_slot s ..).trans (if_pos rfl)
  · refine (State.setSlot_slot s ..).trans (if_neg ?_)
    rintro rfl
    exact hk (sp_succ_toNat hsp)

/-- Settles O27: each is a skip on the level of its key, and a skip moves PC alone. -/
theorem skipsOnKeyLevel : Obligations.SkipsOnKeyLevel := fun x s =>
  ⟨⟨decodeWord_regImmWord_EX9E x, _, exec_opEX9E x s, State.skipIf_pc .., allBut_skipIf ..⟩,
    ⟨decodeWord_regImmWord_EXA1 x, _, exec_opEXA1 x s, congrArg State.pc (skipIf_not ..), allBut_skipIf ..⟩⟩

/-- Settles O30: the carry, then the sum, both of the operands of before. -/
theorem addWritesCarryThenSum : Obligations.AddWritesCarryThenSum := fun x y s =>
  ⟨decodeWord_regRegWord_8XY4 x y, _, exec_op8XY4 x y s, by rw [setFlagged_reg_same, BitVec.toNat_add],
    fun hx => by rw [setFlagged_reg_vF _ _ hx, carryFlag_eq], State.advance_pc s, allBut_advance_setFlagged ..⟩

/-- Settles O31: the no-borrow flag, then the difference, both of the operands of before. -/
theorem subtractWritesNoBorrowThenDifference : Obligations.SubtractWritesNoBorrowThenDifference := fun x y s =>
  ⟨⟨decodeWord_regRegWord_8XY5 x y, _, exec_op8XY5 x y s, by rw [setFlagged_reg_same, sub_byte_toNat],
      fun hx => by rw [setFlagged_reg_vF _ _ hx, noBorrowFlag_eq], State.advance_pc s, allBut_advance_setFlagged ..⟩,
    ⟨decodeWord_regRegWord_8XY7 x y, _, exec_op8XY7 x y s, by rw [setFlagged_reg_same, sub_byte_toNat],
      fun hx => by rw [setFlagged_reg_vF _ _ hx, noBorrowFlag_eq], State.advance_pc s, allBut_advance_setFlagged ..⟩⟩

/-- Settles O32: the bit shifted out, then VX shifted, both of the VX of before. -/
theorem shiftsWriteBitOutThenResult : Obligations.ShiftsWriteBitOutThenResult := fun x y s =>
  ⟨⟨decodeWord_regRegWord_8XY6 x y, _, exec_op8XY6 x y s, by rw [setFlagged_reg_same, shiftRight_byte_toNat],
      fun hx => by rw [setFlagged_reg_vF _ _ hx, shiftRightFlag_toNat], State.advance_pc s,
      allBut_advance_setFlagged ..⟩,
    ⟨decodeWord_regRegWord_8XYE x y, _, exec_op8XYE x y s, by rw [setFlagged_reg_same, shiftLeft_byte_toNat],
      fun hx => by rw [setFlagged_reg_vF _ _ hx, shiftLeftFlag_toNat], State.advance_pc s,
      allBut_advance_setFlagged ..⟩⟩

/-- Settles O34: the byte is the head of the supplied ones or the free value, and one draw is counted. -/
theorem randomIsByteAndLiteral : Obligations.RandomIsByteAndLiteral := by
  intro x nn s
  have tail {rest : List Byte} (h : s.randIn.tail = rest) :
      (s.advance.countDraw.setReg x (s.randByte &&& nn)).randIn = rest := h
  obtain ⟨hregs, hindex, hstack, htimers, hlatch, hmemory, hdisplay, _, hpending⟩ :=
    allBut_advance_setReg x (s.randByte &&& nn) s
  exact ⟨decodeWord_regImmWord_CXNN x nn, _, exec_opCXNN x nn s, State.setReg_reg_same ..,
    fun b rest h => ⟨State.randByte_cons h, tail (by rw [h, List.tail_cons])⟩,
    fun h => ⟨State.randByte_nil h, tail (by rw [h, List.tail_nil])⟩, rfl, State.advance_pc s, hregs, hindex, hstack,
    htimers, hlatch, hmemory, hdisplay, rfl, hpending⟩

end Sys2Proof.Machine
end

section
/-! PROOFS. Memory and keys (spec/43_memory_display_timer.md): what the stores, the loads, the font address and the key
wait leave in memory and registers. -/

namespace Sys2Proof.Machine

/-! ### Frames -/

/-- Registers written on top of the fetch's increment leave everything but them and PC as it was. -/
theorem allBut_advance_regs {ds : List Reg} {s : State} (v : Vector Byte 16) (h : ∀ r, r ∉ ds → v[r] = s.v[r]) :
    Frame.allBut ds s { s.advance with v := v } := by
  obtain ⟨_, others⟩ := allBut_advance ds s
  exact ⟨h, others⟩

/-! ### Reading after a store -/

/-- A byte of a store inside memory is read back at its own address. -/
theorem storeAtI_memRead_ea {s : State} {bs : List Byte} {k : Nat} (hin : s.i.toNat + bs.length ≤ Config.memSize)
    (hk : k < bs.length) : (s.storeAtI bs).memRead (s.ea k) = bs[k]? := by
  have hlo : s.ea 0 ≤ s.ea k := Nat.add_le_add_left (Nat.zero_le k) _
  have hhi : s.ea k < s.ea 0 + bs.length := Nat.add_lt_add_left hk _
  have hsub : s.ea k - s.ea 0 = k := Nat.add_sub_cancel_left ..
  rw [State.storeAtI_memRead, if_pos ⟨hlo, hhi, hhi.trans_le hin⟩, hsub]

/-- A byte outside the store is as it was. -/
theorem storeAtI_memRead_of_outside {s : State} {bs : List Byte} {a : Nat}
    (h : ¬(s.ea 0 ≤ a ∧ a < s.ea 0 + bs.length)) : (s.storeAtI bs).memRead a = s.memRead a := by
  rw [State.storeAtI_memRead, if_neg fun h' => h ⟨h'.1, h'.2.1⟩]

/-- A store after the fetch's increment leaves everything but memory and PC as it was. -/
theorem allButMemory_advance_storeAtI (s : State) (bs : List Byte) : Frame.allButMemory s (s.advance.storeAtI bs) := by
  obtain ⟨hregs, hindex, hstack, htimers, hlatch, _, hdisplay, hinputs, hpending⟩ := allBut_advance [] s
  exact ⟨hregs, hindex, hstack, htimers, hlatch, hdisplay, hinputs, hpending⟩

/-- The bytes FX33 stores (R167). -/
def bcdBytes (b : Byte) : List Byte := [bcdHundreds b, bcdTens b, bcdOnes b]

/-- The bytes FX55 stores (R168). -/
def regBytes (s : State) (x : Reg) : List Byte := s.v.toList.take (x.val + 1)

theorem regBytes_length (s : State) (x : Reg) : (regBytes s x).length = x.val + 1 := by
  rw [regBytes, List.length_take, Vector.length_toList]
  omega

theorem regBytes_get {s : State} {x : Reg} {k : Nat} (h : k ≤ x.val) : (regBytes s x)[k]? = s.v[k]? := by
  rw [regBytes, List.getElem?_take_of_lt (by omega), Vector.getElem?_toList]

theorem exec_opFX33 {x : Reg} {s : State} (h : s.i.toNat + 3 ≤ Config.memSize) :
    exec (.opFX33 x) s = .next (s.advance.storeAtI (bcdBytes (s.reg x))) :=
  (accessAtI_eq ..).trans (if_pos (.inr h))

theorem exec_opFX55 {x : Reg} {s : State} (h : s.i.toNat + x.val < Config.memSize) :
    exec (.opFX55 x) s = .next (s.advance.storeAtI (regBytes s x)) :=
  (accessAtI_eq ..).trans (if_pos (.inr h))

theorem exec_opFX65 {x : Reg} {s : State} (h : s.i.toNat + x.val < Config.memSize) :
    exec (.opFX65 x) s = .next (s.advance.loadRegs x fun k => Memory.byteAt s.mem (s.ea k)) :=
  (accessAtI_eq ..).trans (if_pos (.inr h))

/-- FX55 stores V0 to VX at I to I + X. -/
theorem storeRegs_memRead {x r : Reg} {s : State} (h : s.i.toNat + x.val < Config.memSize) (hr : r ≤ x) :
    (s.advance.storeAtI (regBytes s x)).memRead (s.ea r) = some (s.reg r) := by
  have hlen := regBytes_length s x
  have hin : s.advance.i.toNat + (regBytes s x).length ≤ Config.memSize := by rw [hlen]; exact h
  refine (storeAtI_memRead_ea hin (by rw [hlen]; exact Nat.lt_succ_of_le hr)).trans ((regBytes_get hr).trans ?_)
  exact Vector.getElem?_eq_getElem r.isLt

/-- A load of V0 to VX after the fetch's increment leaves everything but them and PC as it was. -/
theorem allBut_advance_loadRegs (x : Reg) (f : Nat → Byte) (s : State) :
    Frame.allBut ((List.finRange 16).filter fun r => r ≤ x) s (s.advance.loadRegs x f) :=
  allBut_advance_regs (s.advance.loadRegs x f).v fun r hr =>
    (loadRegs_reg_of_not_mem (s := s.advance) hr).trans (s.advance_reg r)

/-- A byte inside memory is the one MemRead answers. -/
theorem memRead_inside {s : State} {a : Nat} (h : a < Config.memSize) : s.memRead a = some (Memory.byteAt s.mem a) :=
  if_pos h

theorem byteAt_of_memRead {s : State} {a : Nat} {b : Byte} (h : s.memRead a = some b) : Memory.byteAt s.mem a = b := by
  rw [State.memRead] at h
  split_ifs at h
  exact Option.some.inj h

/-- FX65 loads into each of V0 to VX the byte that MemRead answers at its address. -/
theorem loadRegs_reg_of_memRead {s : State} {x r : Reg} {b : Byte} (hr : r ≤ x) (h : s.memRead (s.ea r) = some b) :
    (s.advance.loadRegs x fun k => Memory.byteAt s.mem (s.ea k)).reg r = b := by
  rw [State.loadRegs_reg, if_pos hr, byteAt_of_memRead h]

/-- With the last address inside memory every one before it is. -/
theorem ea_lt {s : State} {x r : Reg} (hin : s.i.toNat + x.val < Config.memSize) (hr : r ≤ x) :
    s.ea r < Config.memSize :=
  lt_of_le_of_lt (Nat.add_le_add_left hr _) hin

/-! ### The bytes an instruction stores -/

/-- A byte after a store at I: the stored one inside the store, else the one memory held. -/
theorem storeAtI_byteAt (s : State) (bs : List Byte) (a : Nat) :
    Memory.byteAt (s.storeAtI bs).mem a =
      (if s.i.toNat ≤ a ∧ a < s.i.toNat + bs.length then bs[a - s.i.toNat]? else none).getD
        (Memory.byteAt s.mem a) := by
  rw [State.storeAtI_mem, Memory.byteAt, Memory.find_putList]
  show Option.getD (if s.i.toNat ≤ a ∧ a < s.i.toNat + bs.length then bs[a - s.i.toNat]? else _) _ = _
  split_ifs with h
  · rw [List.getElem?_eq_getElem (by omega)]
    rfl
  · rfl

theorem storedByte_opFX33 (x : Reg) (s : State) (a : Nat) :
    Frame.storedByte (.opFX33 x) s a =
      if s.i.toNat ≤ a ∧ a < s.i.toNat + (bcdBytes (s.reg x)).length then (bcdBytes (s.reg x))[a - s.i.toNat]?
      else none := by
  show (if a = s.i.toNat then some (bcdHundreds (s.reg x)) else if a = s.i.toNat + 1 then some (bcdTens (s.reg x))
    else if a = s.i.toNat + 2 then some (bcdOnes (s.reg x)) else none) = _
  by_cases h : s.i.toNat ≤ a ∧ a < s.i.toNat + (bcdBytes (s.reg x)).length
  · obtain ⟨k, rfl⟩ := Nat.exists_eq_add_of_le h.1
    have hk : k < 3 := Nat.lt_of_add_lt_add_left h.2
    rw [if_pos h, Nat.add_sub_cancel_left]
    interval_cases k <;> simp [bcdBytes]
  · have hlen : (bcdBytes (s.reg x)).length = 3 := rfl
    rw [if_neg h, if_neg (by omega), if_neg (by omega), if_neg (by omega)]

theorem storedByte_opFX55 (x : Reg) (s : State) (a : Nat) :
    Frame.storedByte (.opFX55 x) s a =
      if s.i.toNat ≤ a ∧ a < s.i.toNat + (regBytes s x).length then (regBytes s x)[a - s.i.toNat]? else none := by
  show (if s.i.toNat ≤ a ∧ a ≤ s.i.toNat + x.val then s.v[a - s.i.toNat]? else none) = _
  rw [regBytes_length]
  by_cases h : s.i.toNat ≤ a ∧ a ≤ s.i.toNat + x.val
  · rw [if_pos h, if_pos (by omega), regBytes_get (by omega)]
  · rw [if_neg h, if_neg (by omega)]

/-- Every byte of memory after FX33 and FX55 is the one the table gives (R51, R167, R168). -/
theorem byteAt_memAfter {i : Instr} (s : State) (a : Nat) (h : ∃ x, i = .opFX33 x ∨ i = .opFX55 x) :
    Memory.byteAt (memAfter i s) a = Frame.byteAfter i s a := by
  obtain ⟨x, rfl | rfl⟩ := h
  · rw [Frame.byteAfter, storedByte_opFX33]
    exact storeAtI_byteAt s (bcdBytes (s.reg x)) a
  · rw [Frame.byteAfter, storedByte_opFX55]
    exact storeAtI_byteAt s (regBytes s x) a

/-! ### The font address -/

theorem lowDigit_val (b : Byte) : (lowDigit b).val = b.toNat % 16 := by
  simp [lowDigit]

theorem exec_opFX29 (x : Reg) (s : State) :
    exec (.opFX29 x) s =
      .next { s.advance with i := BitVec.ofNat 16 (Config.fontBase.val + 5 * ((s.reg x).toNat % 16)) } := by
  rw [← lowDigit_val]
  rfl

/-- A glyph's address fits I. -/
theorem fontAddress_toNat (d : Nat) (hd : d < 16) :
    (BitVec.ofNat 16 (Config.fontBase.val + 5 * d)).toNat = Config.fontBase.val + 5 * d := by
  have := Config.fontBase.isLt
  rw [BitVec.toNat_ofNat]
  omega

/-! ### The first key -/

/-- A key that is down below which none is is the first key (R61). -/
theorem firstKey_eq_some {s : State} {k : Reg} (hk : s.keys.getLsbD k = true)
    (hlow : ∀ j : Reg, j < k → s.keys.getLsbD j = false) : s.firstKey = some k := by
  cases hf : s.firstKey with
  | none => exact absurd ((State.firstKey_none.mp hf k).symm.trans hk) Bool.false_ne_true
  | some j =>
    obtain ⟨hj, hjlow⟩ := State.firstKey_some hf
    obtain hlt | rfl | hgt := lt_trichotomy j k
    · exact absurd ((hlow j hlt).symm.trans hj) Bool.false_ne_true
    · rfl
    · exact absurd ((hjlow k hgt).symm.trans hk) Bool.false_ne_true

/-! ### The statements -/

/-- Settles O37: the base is the model's free constant, bounded by its type. -/
theorem fontAddressIsBasePlusFivePerDigit : Obligations.FontAddressIsBasePlusFivePerDigit := by
  have hbase : Config.fontBase.val + 16 * 5 ≤ 4096 := by have := Config.fontBase.isLt; omega
  exact ⟨Config.fontBase.val, hbase, fun x s =>
    ⟨decodeWord_regImmWord_FX29 x, _, exec_opFX29 x s, fontAddress_toNat _ (Nat.mod_lt _ (by decide)),
      State.advance_pc s, allButIndex_advance_index ..⟩⟩

/-- Settles O38: the three digits are the bytes stored, and no other address is. -/
theorem bcdStoresThreeDigits : Obligations.BcdStoresThreeDigits := by
  intro x s hin
  have hlt := (s.reg x).isLt
  have read {k : Nat} (hk : k < 3) : (s.advance.storeAtI (bcdBytes (s.reg x))).memRead (s.ea k) = _ :=
    storeAtI_memRead_ea (s := s.advance) hin hk
  refine ⟨decodeWord_regImmWord_FX33 x, _, _, _, _, exec_opFX33 hin, read (by decide), read (by decide),
    read (by decide), ?_, ?_, ?_, fun a ha => storeAtI_memRead_of_outside ha, State.advance_pc s,
    allButMemory_advance_storeAtI ..⟩
  · rw [bcdHundreds, BitVec.toNat_ofNat]; omega
  · rw [bcdTens, BitVec.toNat_ofNat]; omega
  · rw [bcdOnes, BitVec.toNat_ofNat]; omega

/-- Settles O39: the byte stored at I + r is Vr, and no other address is stored to. -/
theorem storeRegistersWritesV0ToVX : Obligations.StoreRegistersWritesV0ToVX := by
  intro x s hin
  refine ⟨decodeWord_regImmWord_FX55 x, _, exec_opFX55 hin, fun r hr => storeRegs_memRead hin hr, fun a ha => ?_,
    State.advance_pc s, allButMemory_advance_storeAtI ..⟩
  refine storeAtI_memRead_of_outside fun h => ha ⟨h.1, ?_⟩
  rw [regBytes_length] at h
  exact Nat.le_of_lt_succ h.2

/-- Settles O40: each of V0 to VX is the byte at its address. -/
theorem loadRegistersReadsV0ToVX : Obligations.LoadRegistersReadsV0ToVX := by
  intro x s hin
  refine ⟨decodeWord_regImmWord_FX65 x, _, exec_opFX65 hin, fun r hr => ?_, State.advance_pc s,
    allBut_advance_loadRegs ..⟩
  rw [loadRegs_reg_of_memRead hr (memRead_inside (ea_lt hin hr)), memRead_inside (ea_lt hin hr)]

/-- Settles O42: FX65 reads back at each address the register FX55 stored there. -/
theorem dumpThenLoadRestoresRegisters : Obligations.DumpThenLoadRestoresRegisters := by
  intro x s v' hin
  let t : State := { s.advance.storeAtI (regBytes s x) with v := v' }
  have hread {r : Reg} (hr : r ≤ x) : t.memRead (t.ea r) = some (s.reg r) := storeRegs_memRead hin hr
  obtain ⟨_, hindex, _, _, _, hmemory, _⟩ := allBut_advance_loadRegs x (fun k => Memory.byteAt t.mem (t.ea k)) t
  refine ⟨_, _, exec_opFX55 hin, exec_opFX65 (s := t) hin, fun r hr => loadRegs_reg_of_memRead hr (hread hr),
    fun r hr => ?_, hindex, hmemory⟩
  rw [State.loadRegs_reg, if_neg (not_le.mpr hr)]
  rfl

/-- Settles O43: the two bytes fetched are memory's after the store. -/
theorem storesAreSeenByNextFetch : Obligations.StoresAreSeenByNextFetch := by
  intro i s hi hin
  have hf : fatalOf i s = none := by
    obtain ⟨x, rfl | rfl⟩ := hi <;> exact dataFatal_of_inside (.inr hin)
  have hpc : Frame.pcAfter i s = s.pc + 2 := by
    obtain ⟨x, rfl | rfl⟩ := hi <;> rfl
  refine ⟨_, exec_of_none hf, hpc, fun q hq => ?_⟩
  have read {a : Nat} (ha : a < 4096) : (effect i s).memRead a = some (Frame.byteAfter i s a) := by
    rw [memRead_inside ha, ← byteAt_memAfter s a hi]
    rfl
  exact State.fetch_of_memRead (s := { effect i s with pc := q }) (read (a := q.toNat) (by omega))
    (read (a := q.toNat + 1) (by omega))

/-- Settles O45: the key given is the first key, whose number fits a byte. -/
theorem keyWaitTakesLowestKey : Obligations.KeyWaitTakesLowestKey := by
  intro x k s hk hlow
  refine ⟨decodeWord_regImmWord_FX0A x, _, exec_opFX0A_some (firstKey_eq_some hk hlow), ?_, State.advance_pc s,
    allBut_advance_setReg ..⟩
  rw [State.setReg_reg_same, BitVec.toNat_ofNat]
  omega

/-- Settles O46: with no key down there is no first key. -/
theorem keyWaitHoldsWithoutKey : Obligations.KeyWaitHoldsWithoutKey := fun _ s h =>
  exec_opFX0A_none (s.firstKey_eq_none_iff.mpr h)

end Sys2Proof.Machine
end

section
/-! PROOFS. The draw (spec/43_memory_display_timer.md section 1, DXYN): pixel by pixel, and drawn twice. -/

namespace Sys2Proof.Machine

/-! ### The sprite over the grid -/

/-- There is no set pixel outside the grid (R56). -/
theorem Display.pixel_of_outside {fb : Display} {px py : Nat} (h : ¬(px < 64 ∧ py < 32)) :
    Display.pixel fb px py = false := by
  rw [Display.pixel]
  split_ifs with hy
  · exact BitVec.getLsbD_of_ge _ _ (by omega)
  · rfl

/-- The bit of the clipped sprite over a pixel: that of the row and column of the sprite there, if any (R165). -/
def spriteOver (x0 y0 : Nat) (rows : List Byte) (px py : Nat) : Bool :=
  decide (px < 64 ∧ py < 32) && (decide (y0 ≤ py) && decide (x0 ≤ px) && (rows.getD (py - y0) 0).getMsbD (px - x0))

/-- A blit is the XOR with the clipped sprite, at every pixel. -/
theorem blitRows_pixel_eq_xor (x0 y0 px py : Nat) (rows : List Byte) (fb : Display) :
    Display.pixel (blitRows x0 y0 rows fb).1 px py =
      (Display.pixel fb px py ^^ spriteOver x0 y0 rows px py) := by
  by_cases h : px < 64 ∧ py < 32
  · rw [blitRows_pixel x0 px py h.1 h.2, spriteOver, decide_eq_true h, Bool.true_and]
  · rw [Display.pixel_of_outside h, Display.pixel_of_outside h, spriteOver, decide_eq_false h]
    rfl

/-- The rows DXYN reads are the bytes from I upward. -/
theorem bytesAtI_getD {s : State} {n r : Nat} (h : r < n) :
    (s.bytesAtI n).getD r 0 = Memory.byteAt s.mem (s.ea r) := by
  rw [List.getD_eq_getElem?_getD, s.bytesAtI_get n r h, Option.getD_some]

/-- Over a pixel of the clipped sprite the bit is the sprite's. -/
theorem spriteOver_of_onGrid {s : State} {n x0 y0 r c : Nat} (h : Frame.onGrid n x0 y0 r c) :
    spriteOver x0 y0 (s.bytesAtI n) (x0 + c) (y0 + r) = Frame.spriteBit s r c := by
  obtain ⟨hr, hc, hx, hy⟩ := h
  rw [spriteOver, decide_eq_true ⟨hx, hy⟩, decide_eq_true (Nat.le_add_right y0 r),
    decide_eq_true (Nat.le_add_right x0 c), Nat.add_sub_cancel_left, Nat.add_sub_cancel_left, bytesAtI_getD hr,
    getMsbD_byte, decide_eq_true hc]
  rfl

/-- Over any other pixel there is no set bit. -/
theorem spriteOver_of_not_onGrid {s : State} {n x0 y0 px py : Nat}
    (h : ¬ ∃ r c, Frame.onGrid n x0 y0 r c ∧ px = x0 + c ∧ py = y0 + r) :
    spriteOver x0 y0 (s.bytesAtI n) px py = false := by
  by_contra hbit
  simp only [spriteOver, getMsbD_byte, Bool.not_eq_false, Bool.and_eq_true, decide_eq_true_eq] at hbit
  obtain ⟨⟨hpx, hpy⟩, ⟨hy, hx⟩, hc, hset⟩ := hbit
  have hr : py - y0 < n := by
    by_contra hge
    rw [List.getD_eq_default _ _ (by rw [State.bytesAtI_length]; omega)] at hset
    simp at hset
  have hpx' : x0 + (px - x0) = px := Nat.add_sub_cancel' hx
  have hpy' : y0 + (py - y0) = py := Nat.add_sub_cancel' hy
  exact h ⟨py - y0, px - x0, ⟨hr, hc, hpx'.trans_lt hpx, hpy'.trans_lt hpy⟩, hpx'.symm, hpy'.symm⟩

/-- A blit of the rows at I reports a collision exactly when a set sprite bit is over a set pixel. -/
theorem blitRows_bytesAtI_collision (s : State) (n x0 y0 : Nat) (fb : Display) :
    (blitRows x0 y0 (s.bytesAtI n) fb).2 = true ↔
      ∃ r c, Frame.onGrid n x0 y0 r c ∧ Frame.spriteBit s r c = true ∧
        Display.pixel fb (x0 + c) (y0 + r) = true := by
  rw [blitRows_collision]
  constructor
  · rintro ⟨r, c, hr, hc, hx, hy, hbit, hpix⟩
    rw [State.bytesAtI_length] at hr
    rw [bytesAtI_getD hr] at hbit
    exact ⟨r, c, ⟨hr, hc, hx, hy⟩, hbit, hpix⟩
  · rintro ⟨r, c, ⟨hr, hc, hx, hy⟩, hbit, hpix⟩
    exact ⟨r, c, by rwa [State.bytesAtI_length], hc, hx, hy, by rwa [bytesAtI_getD hr], hpix⟩

theorem flagByte_eq_one_iff (b : Bool) : flagByte b = 1 ↔ b = true := by
  cases b <;> decide

theorem flagByte_eq_zero_or_one (b : Bool) : flagByte b = 0 ∨ flagByte b = 1 := by
  cases b
  · exact .inl rfl
  · exact .inr rfl

/-! ### The state after a draw -/

/-- Registers, I and memory decide the sprite, whatever the grid it is drawn on. -/
theorem drawnBy_congr {s t : State} (x y : Reg) (n : Nibble) (hv : t.v = s.v) (hi : t.i = s.i) (hmem : t.mem = s.mem) :
    drawnBy x y n t =
      blitRows ((s.reg x).toNat % 64) ((s.reg y).toNat % 32) (s.bytesAtI n.toNat) t.fb := by
  simp only [drawnBy, State.reg, State.bytesAtI, State.ea, hv, hi, hmem]

theorem exec_opDXYN {x y : Reg} {n : Nibble} {s : State} (h : n = 0 ∨ s.i.toNat + n.toNat ≤ Config.memSize) :
    exec (.opDXYN x y n) s =
      .next { s.advance with v := (s.setReg vF (flagByte (drawnBy x y n s).2)).v, fb := (drawnBy x y n s).1 } :=
  exec_of_none (dataFatal_of_inside (h.imp_left fun h => by rw [h]; rfl))

/-- VF and the grid written on top of the fetch's increment leave everything else but PC as it was. -/
theorem advance_draw_frame {s : State} (v : Vector Byte 16) (fb : Display) (h : ∀ r, r ∉ [vF] → v[r] = s.v[r])
    (t : State) (ht : t = { s.advance with v := v, fb := fb }) :
    Frame.regsBut [vF] s t ∧ Frame.index s t ∧ Frame.callStack s t ∧ Frame.timers s t ∧ Frame.latch s t ∧
      Frame.memory s t ∧ Frame.inputs s t ∧ Frame.pending s t := by
  subst ht
  obtain ⟨hregs, hindex, hstack, htimers, hlatch, hmemory, _, hinputs, hpending⟩ := allBut_advance_regs v h
  exact ⟨hregs, hindex, hstack, htimers, hlatch, hmemory, hinputs, hpending⟩

/-! ### The statements -/

/-- Settles O35: the grid is XORed with the clipped sprite, and VF is the flag of the collision. -/
theorem drawXorsClippedSprite : Obligations.DrawXorsClippedSprite := by
  intro x y n s hin
  have hvF := State.setReg_reg_same s vF (flagByte (drawnBy x y n s).2)
  refine ⟨decodeWord_regRegWord_DXYN x y n, _, exec_opDXYN hin, State.advance_pc s, fun r c hgrid => ?_,
    fun px py hoff => ?_, ?_, ?_, advance_draw_frame _ _ (fun r hr => setReg_reg_of_not_mem hr) _ rfl⟩
  · exact (blitRows_pixel_eq_xor ..).trans (congrArg _ (spriteOver_of_onGrid hgrid))
  · exact (blitRows_pixel_eq_xor ..).trans ((congrArg _ (spriteOver_of_not_onGrid hoff)).trans (Bool.xor_false _))
  · exact (flagByte_eq_zero_or_one _).imp hvF.trans hvF.trans
  · exact (Eq.congr_left hvF).trans ((flagByte_eq_one_iff _).trans (blitRows_bytesAtI_collision ..))

/-- Settles O36: both draws XOR the grid with the same sprite, so the second undoes the first; where the grid was clear
under the sprite, what the second meets there is the sprite itself. -/
theorem drawingTwiceRestoresGrid : Obligations.DrawingTwiceRestoresGrid := by
  intro x y n s hin
  let t : State := { s.advance with v := (s.setReg vF (flagByte (drawnBy x y n s).2)).v, fb := (drawnBy x y n s).1 }
  let t' : State := { t with v := s.v }
  have once (px py : Nat) : t.pixel px py = (s.pixel px py ^^ _) := blitRows_pixel_eq_xor ..
  have again : drawnBy x y n t' = blitRows _ _ (s.bytesAtI n.toNat) t.fb := drawnBy_congr x y n rfl rfl rfl
  have htvF : t.reg vF = _ := State.setReg_reg_same s vF (flagByte (drawnBy x y n s).2)
  have huvF := State.setReg_reg_same t' vF (flagByte (drawnBy x y n t').2)
  refine ⟨t, _, exec_opDXYN hin, exec_opDXYN (s := t') hin, fun px py => ?_, fun hclear => ⟨?_, ?_⟩⟩
  · have second := congrArg (fun drawn : Display × Bool => Display.pixel drawn.1 px py) again
    refine (second.trans (blitRows_pixel_eq_xor ..)).trans ?_
    show (t.pixel px py ^^ _) = s.pixel px py
    rw [once, Bool.xor_assoc, Bool.xor_self, Bool.xor_false]
  · have hmiss : (drawnBy x y n s).2 = false := Bool.eq_false_iff.mpr fun hhit => by
      obtain ⟨r, c, hgrid, -, hpix⟩ := (blitRows_bytesAtI_collision ..).mp hhit
      exact Bool.false_ne_true ((hclear r c hgrid).symm.trans hpix)
    rw [htvF, hmiss]
    rfl
  · refine (Eq.congr_left huvF).trans ((flagByte_eq_one_iff _).trans ?_)
    rw [again, blitRows_bytesAtI_collision]
    refine exists₂_congr fun r c => and_congr_right fun hgrid => and_iff_left_of_imp fun hbit => ?_
    refine (once _ _).trans ?_
    rw [hclear r c hgrid, spriteOver_of_onGrid hgrid, hbit]
    rfl

end Sys2Proof.Machine
end
